-- ==== Sys2Proof/Word.lean ====
section
/-! DEFINITION. The two unsigned integer types of the FCU (00_scope.md R10): bytes and 32-bit words.
There is no signed quantity; sizes and addresses under arithmetic are natural numbers (R10, D29). -/

namespace Sys2Proof

/-- `u8`, 8 bits (00_scope.md R10). -/
abbrev Byte := BitVec 8

/-- `u32`, 32 bits (00_scope.md R10). -/
abbrev Word := BitVec 32

end Sys2Proof
end

