-- ==== Sys2Proof/Config.lean ====
section
/-! DEFINITION. What is fixed for one FCU: the build parameters (00_scope.md R8), the register code of "none"
(R7), and the free values, which the spec leaves unspecified (93_implementation_defined.md U2, U3). -/

namespace Sys2Proof

/-- The build parameters of one FCU (00_scope.md R8). They are no state; the model carries them as data in
`State.cfg`, which no step writes, so that a statement about every state covers every legal build
(DESIGN CHOICE, log 3). Bus addresses are natural numbers (DESIGN CHOICE, log 4). -/
structure Config where
  /-- `MEM_SIZE`, bytes of buffer RAM. -/
  memSize : Nat
  /-- `HAS_RPQ`, the queue unit is present. -/
  hasRpq : Bool
  /-- `Q_STRICT_FIT`, a record needs a strictly larger gap. -/
  qStrictFit : Bool
  /-- `REG_BASE`, bus address of the register block. -/
  regBase : Nat
  /-- `MEM_BASE`, bus address of the window onto `MEM`. -/
  memBase : Nat
deriving DecidableEq, Repr

/-- The constraints of 00_scope.md R8 on the build parameters. -/
abbrev Config.wf (c : Config) : Prop :=
  c.memSize % 4 = 0 ∧ 64 ≤ c.memSize ∧ c.memSize ≤ 2 ^ 31 ∧ c.regBase % 256 = 0 ∧ c.memBase % 4 = 0 ∧
    (c.regBase + 256 ≤ c.memBase ∨ c.memBase + c.memSize ≤ c.regBase)

/-- The defaults of 00_scope.md R8. `REG_BASE` and `MEM_BASE` are OPEN there: the two bases here are a
DESIGN CHOICE (log 4), unsafe only for a claim about `State.reset` that names a bus address. -/
def Config.default : Config :=
  { memSize := 4096, hasRpq := true, qStrictFit := false, regBase := 0, memBase := 0x1000 }

/-- `NONE`, the register code of D0's "none" offset (00_scope.md R7, D23). -/
abbrev noneOffset : Word := 0xFFFFFFFF

/-- Free value: what the `n`-th unspecified word is (R101 (c), U2). Nothing constrains it (log 7). -/
opaque Config.freeWord : Nat → Word

/-- Free value: what the `n`-th unspecified byte is (R238, U3). Nothing constrains it (log 8). -/
opaque Config.freeByte : Nat → Byte

end Sys2Proof
end

