-- ==== Sys2Proof/Syntax.lean ====
section
/-! DEFINITION. The command set (30_encoding.md R93): one constructor per row of spec/opcode_table.json. -/

namespace Sys2Proof

/-- The thirteen commands of FCU command set 1.0 (00_scope.md R2, 30_encoding.md R93).
Every operand but the immediate of `crcbyte` is a fixed register (R91, R105). -/
inductive Instr where
  /-- `NOP` (R195) -/
  | nop
  /-- `LOCATE` (R150) -/
  | locate
  /-- `GENFCS` (R165) -/
  | genfcs
  /-- `DETLEN` (R180) -/
  | detlen
  /-- `VALIDATE` (R182) -/
  | validate
  /-- `APPENDFCS` (R166) -/
  | appendfcs
  /-- `CRCINIT` (R163) -/
  | crcinit
  /-- `CRCBYTE imm8` (R164); the immediate is an unsigned byte (R92) -/
  | crcbyte (imm8 : Byte)
  /-- `QINIT` (R112) -/
  | qinit
  /-- `QRESERVE` (R114) -/
  | qreserve
  /-- `QCOMMIT` (R117) -/
  | qcommit
  /-- `QPEEK` (R119) -/
  | qpeek
  /-- `QCONSUME` (R120) -/
  | qconsume
deriving DecidableEq, Repr

/-- The five commands of the queue unit, `op` 0x10 to 0x14 (30_encoding.md R93, R95). -/
def Instr.isQueue : Instr → Bool
  | .nop => false
  | .locate => false
  | .genfcs => false
  | .detlen => false
  | .validate => false
  | .appendfcs => false
  | .crcinit => false
  | .crcbyte _ => false
  | .qinit => true
  | .qreserve => true
  | .qcommit => true
  | .qpeek => true
  | .qconsume => true

end Sys2Proof
end

