-- ==== Sys2Proof/Machine/State.lean ====
section
/-! DEFINITION. The state of one FCU (10_state.md R20), the bus port's transactions and answers (20_memory.md
R65), the events of the total order (R75), the reasons a step can stop, and the state after reset (R51). -/

namespace Sys2Proof.Machine

/-- The ten codes of `STATUS.ERR` (60_exceptions.md R205); codes 0xA to 0xF are never produced. -/
inductive ErrCode where
  | noError | framing | fcs | short | alloc | prog | illcmd | bounds | badArg | halted
deriving DecidableEq, Repr

/-- Width of a bus transaction: 1, 2 or 4 bytes (20_memory.md R65). -/
inductive Size where
  | one | two | four
deriving DecidableEq, Repr

/-- What a transaction does. A write carries its data in the low `n` bytes of a word (log 12). -/
inductive BusOp where
  | read
  | write (data : Word)
deriving DecidableEq, Repr

/-- A bus transaction (20_memory.md R65): a bus address, a size and a direction. -/
structure Transaction where
  addr : Nat
  size : Size
  op : BusOp
deriving DecidableEq, Repr

/-- The FCU's answer to a transaction (20_memory.md R65). -/
inductive Answer where
  /-- a read's `n` bytes, zero above them in this container (the bus returns the `n` bytes only, R68) -/
  | data (size : Size) (value : Word)
  /-- a write was taken (stored, ignored or dropped) -/
  | completed
  /-- the transaction is a bus error (R66) -/
  | busError
deriving DecidableEq, Repr

/-- One element of the total order of 20_memory.md R75. -/
inductive Event where
  /-- a host transaction -/
  | bus (t : Transaction)
  /-- the engine step, a step of the machine exactly when `BUSY = 1` (R98) -/
  | engine
  /-- the reset input (R235) -/
  | reset
deriving DecidableEq, Repr

/-- The buffer RAM as a list of (address, byte) pairs in canonical form: addresses rising, no entry 0
(`Memory.wf`). An unlisted byte reads 0: what it holds after power-on is unspecified (R237), so this is a
DESIGN CHOICE (log 5). -/
abbrev Memory := List Host.Cell

/-- The state of one FCU: the elements of 10_state.md R20, and four fields of the model's own. -/
structure State where
  /-- the build parameters (00_scope.md R8), written by no step (log 3) -/
  cfg : Config
  /-- `CTRL.ALIGN_EN` (R24) -/
  alignEn : Bool
  /-- `CTRL.IRQ_EN` (R24) -/
  irqEn : Bool
  /-- `STATUS.BUSY` (R25) -/
  busy : Bool
  /-- `STATUS.DONE` (R25) -/
  done : Bool
  /-- `STATUS.OK` (R25) -/
  ok : Bool
  /-- `STATUS.FATAL` (R25) -/
  fatal : Bool
  /-- `STATUS.BUSYERR` (R25) -/
  busyErr : Bool
  /-- `STATUS.ERR` (R25) -/
  err : ErrCode
  /-- `PEND` (R27) -/
  pend : Word
  /-- `BASE` (R28) -/
  base : Word
  /-- `LEN` (R29) -/
  len : Word
  /-- `MAXLEN` (R30) -/
  maxLen : Word
  /-- `CRC` (R31) -/
  crc : Word
  /-- `MIDX` (R32) -/
  midx : Word
  /-- `MOFF` (R33) -/
  moff : Word
  /-- `DROPS` (R34) -/
  drops : Word
  /-- `ARG` (R35) -/
  arg : Word
  /-- `REC` (R36) -/
  recd : Word
  /-- `QDATA` (R37) -/
  qdata : Word
  /-- `QDLEN` (R38) -/
  qdlen : Word
  /-- `QHEAD` (R39) -/
  qhead : Word
  /-- `QTAIL` (R40) -/
  qtail : Word
  /-- `QCAP` (R41) -/
  qcap : Word
  /-- `MEM` (R43) -/
  mem : Memory
  /-- model: the rest of the total order of R75 (log 1) -/
  order : List Event
  /-- model: the bus port's answer to the last step's transaction, if it was one (log 11) -/
  answer : Option Answer
  /-- model: how many free values have been drawn (logs 7 and 8) -/
  free : Nat
deriving DecidableEq, Repr

/-- Why the machine stops. -/
inductive Fault where
  /-- Raised by a queue command that would access the header at `addr`, inside the arena `MEM[0 .. QCAP)` but not
  inside `MEM` (10_state.md R43: `MEM` has no such byte). It needs `QCAP > MEM_SIZE`, which `QINIT` excludes
  (R112): no state that meets `Inv` raises it. Safe (log 10). -/
  | outsideMem (addr : Nat)
deriving DecidableEq, Repr

/-- Why an instruction is refused. -/
inductive Refusal where
  /-- Raised by an arm of `exec` that has no meaning yet; no arm is left. Safe. -/
  | notModelled (mnemonic : String)
deriving DecidableEq, Repr

/-- What a meaning and a step answer. -/
abbrev Result := Host.Outcome State Fault Refusal

/-- The state after reset of the build `cfg`, with the buffer RAM `mem`, which reset does not write
(10_state.md R51, 70_reset_and_hazards.md R236). `PEND` is unspecified there: 0 is a DESIGN CHOICE (log 6).
`order`, `answer` and `free` are the model's own. -/
def State.resetOf (cfg : Config) (mem : Memory) (order : List Event) (free : Nat) : State :=
  { cfg := cfg
    alignEn := true
    irqEn := false
    busy := false
    done := false
    ok := false
    fatal := false
    busyErr := false
    err := .noError
    pend := 0
    base := 0
    len := 0
    maxLen := 0xFFFFFFFF
    crc := 0
    midx := 0
    moff := 0
    drops := 0
    arg := 0
    recd := noneOffset
    qdata := noneOffset
    qdlen := 0
    qhead := noneOffset
    qtail := noneOffset
    qcap := 0
    mem := mem
    order := order
    answer := none
    free := free }

/-- The machine right after power-on: the default build of R8, no byte of `MEM` listed (log 5), nothing yet in
the total order (log 1). -/
def State.reset : State := State.resetOf Config.default [] [] 0

end Sys2Proof.Machine
end

