-- ==== Sys2Proof/Machine/Flags.lean ====
section
/-! DEFINITION. Everything the spec computes about flags: the numeric error codes (60_exceptions.md R205), what
`complete` writes to `OK` and `FATAL` (30_encoding.md R99), the `STATUS` and `CTRL` words (10_state.md R24, R25)
and the interrupt level (R52). -/

namespace Sys2Proof.Machine

/-- The 4-bit value of an error code (R205). -/
def ErrCode.code : ErrCode → BitVec 4
  | .noError => 0x0
  | .framing => 0x1
  | .fcs => 0x2
  | .short => 0x3
  | .alloc => 0x4
  | .prog => 0x5
  | .illcmd => 0x6
  | .bounds => 0x7
  | .badArg => 0x8
  | .halted => 0x9

/-- `OK <- 1` if the code is 0, else 0 (R99). -/
def okAfter (e : ErrCode) : Bool := e == .noError

/-- `FATAL <- 1` if the code is `ERR_PROG`, else unchanged (R99, R211). -/
def fatalAfter (fatal : Bool) (e : ErrCode) : Bool := fatal || e == .prog

/-- `STATUS` as a word (R25): `BUSY`, `DONE`, `OK`, `FATAL` in bits 0 to 3, `ERR` in 7:4, `BUSYERR` in bit 8,
the reserved bits 0. -/
def State.statusWord (s : State) : Word :=
  (0 : BitVec 23) ++ BitVec.ofBool s.busyErr ++ s.err.code ++ BitVec.ofBool s.fatal ++ BitVec.ofBool s.ok ++
    BitVec.ofBool s.done ++ BitVec.ofBool s.busy

/-- `CTRL` as a word (R24): `ALIGN_EN` in bit 0, `IRQ_EN` in bit 1, the reserved bits 0. -/
def State.ctrlWord (s : State) : Word :=
  (0 : BitVec 30) ++ BitVec.ofBool s.irqEn ++ BitVec.ofBool s.alignEn

/-- `IRQ = CTRL.IRQ_EN AND STATUS.DONE`, a level without a latch (R52, R216). -/
def State.irq (s : State) : Bool := s.irqEn && s.done

end Sys2Proof.Machine
end

