-- ==== Sys2Proof/Machine/Ops.lean ====
section
/-! DEFINITION. The named operations on memory and registers: bytes of `MEM` and their little-endian accessors
(00_scope.md R14), the register updates the meanings use, the end of a command `complete` (30_encoding.md R99),
which is this hardware's whole "trap entry" (60_exceptions.md R214), and beside it the accepted `CMD` write (R97),
its "return" (R215), and the acknowledge (44_system.md R196). -/

namespace Sys2Proof.Machine

/-! ## MEM -/

/-- Byte `a` of `MEM`; what an unlisted byte reads as is decided here alone: 0 (DESIGN CHOICE, log 5). -/
def Memory.byteAt : Memory → Nat → Byte
  | [], _ => 0
  | (b, v) :: m, a => if b = a then v else Memory.byteAt m a

/-- Store byte `v` at `a`, keeping the canonical form: addresses rise and a 0 is not listed. -/
def Memory.put : Memory → Nat → Byte → Memory
  | [], a, v => if v = 0 then [] else [(a, v)]
  | (b, w) :: m, a, v =>
    if a < b then
      if v = 0 then (b, w) :: m else (a, v) :: (b, w) :: m
    else if a = b then
      if v = 0 then m else (a, v) :: m
    else (b, w) :: Memory.put m a v

/-- Addresses rise strictly from `lo` on and no listed byte is 0. -/
def Memory.wfFrom : Nat → Memory → Bool
  | _, [] => true
  | lo, (b, v) :: m => decide (lo ≤ b) && decide (v ≠ 0) && Memory.wfFrom (b + 1) m

/-- The canonical form of `MEM`: equal contents are equal lists. -/
def Memory.wf (m : Memory) : Bool := Memory.wfFrom 0 m

/-- Every listed byte lies in `MEM[0 .. size)` (10_state.md R43). -/
def Memory.within (m : Memory) (size : Nat) : Bool := m.all fun c => decide (c.1 < size)

/-- `MEM[a .. a + n)`, in increasing address. -/
def Memory.slice (m : Memory) (a : Nat) : Nat → List Byte
  | 0 => []
  | n + 1 => m.byteAt a :: Memory.slice m (a + 1) n

/-- Store the bytes at `a`, `a + 1`, and so on, one by one. -/
def Memory.putList : Memory → Nat → List Byte → Memory
  | m, _, [] => m
  | m, a, v :: vs => Memory.putList (m.put a v) (a + 1) vs

/-- How many bytes a transaction of this size has (20_memory.md R65). -/
def Size.bytes : Size → Nat
  | .one => 1
  | .two => 2
  | .four => 4

/-- The low `n` bytes of a word, least significant first (R14, R61). -/
def leBytes (n : Nat) (v : Word) : List Byte :=
  [v.extractLsb' 0 8, v.extractLsb' 8 8, v.extractLsb' 16 8, v.extractLsb' 24 8].take n

/-- The low `n` bytes of a word, zeros above: the value of an access of that size. -/
def Size.low : Size → Word → Word
  | .one, v => (0 : BitVec 24) ++ v.extractLsb' 0 8
  | .two, v => (0 : BitVec 16) ++ v.extractLsb' 0 16
  | .four, v => v

/-- `MemRead(a, n)` (R14): little-endian, zero above the `n` bytes. -/
def Memory.read (m : Memory) (a : Nat) (n : Size) : Word :=
  n.low (m.byteAt (a + 3) ++ m.byteAt (a + 2) ++ m.byteAt (a + 1) ++ m.byteAt a)

/-- `MemWrite(a, n, v)` (R14): `v[7:0]` at `a`, `v[15:8]` at `a + 1`, and so on. -/
def Memory.write (m : Memory) (a : Nat) (n : Size) (v : Word) : Memory :=
  m.putList a (leBytes n.bytes v)

/-- `n` bytes from `a` on take unspecified values: the free values number `k`, `k + 1`, and so on (R238). -/
def Memory.putFree (m : Memory) (a k : Nat) : Nat → Memory
  | 0 => m
  | n + 1 => Memory.putFree (m.put a (Config.freeByte k)) (a + 1) (k + 1) n

/-! ## Register updates -/

/-- Replace the contents of `MEM`. -/
def State.setMem (s : State) (m : Memory) : State := { s with mem := m }

/-- `LEN <- v` (R29). -/
def State.setLen (s : State) (v : Word) : State := { s with len := v }

/-- `CRC <- v` (R31). -/
def State.setCrc (s : State) (v : Word) : State := { s with crc := v }

/-- `MIDX <- i`, `MOFF <- j` (R32, R33). -/
def State.setMatch (s : State) (i j : Word) : State := { s with midx := i, moff := j }

/-- `DROPS <- (DROPS + 1) mod 2^32` (R34, R184). -/
def State.bumpDrops (s : State) : State := { s with drops := s.drops + 1 }

/-- `REC <- r` (R36). -/
def State.setRec (s : State) (r : Word) : State := { s with recd := r }

/-- `QDATA <- d`, `QDLEN <- n` (R37, R38). -/
def State.setView (s : State) (d n : Word) : State := { s with qdata := d, qdlen := n }

/-- `QHEAD <- h`, `QTAIL <- t` (R39, R40). -/
def State.setEnds (s : State) (h t : Word) : State := { s with qhead := h, qtail := t }

/-- `QCAP <- c` (R41). -/
def State.setCap (s : State) (c : Word) : State := { s with qcap := c }

/-! ## The end of a command, and the next one -/

/-- `complete(code)` (R99): the whole effect of an error (R214) and of a success on the status flags. -/
def State.complete (s : State) (e : ErrCode) : State :=
  { s with busy := false, done := true, err := e, ok := okAfter e, fatal := fatalAfter s.fatal e }

/-- `complete(0)`: the command ends without error. -/
def State.finish (s : State) : Result := .next (s.complete .noError)

/-- `fail <Name>` (R14): `complete(ERR_<Name>)` and no assignment after it. -/
def State.fail (s : State) (e : ErrCode) : Result := .next (s.complete e)

/-- An accepted `CMD` write of `w` (R97): the word is latched, `DONE`, `OK`, `ERR` are cleared. -/
def State.accept (s : State) (w : Word) : State :=
  { s with pend := w, busy := true, done := false, ok := false, err := .noError }

/-- A write of `w` to `STATUS` (R25, R196): bit 1 clears `DONE`, bit 8 clears `BUSYERR`, nothing else. -/
def State.ackStatus (s : State) (w : Word) : State :=
  { s with done := s.done && !w.getLsbD 1, busyErr := s.busyErr && !w.getLsbD 8 }

/-- A host write dropped because `BUSY = 1` (R101 (a)). -/
def State.dropWrite (s : State) : State := { s with busyErr := true }

/-- A write of `w` to `CTRL` (R24, R197): bits 1:0 are stored, the reserved bits ignored. -/
def State.setCtrl (s : State) (w : Word) : State :=
  { s with alignEn := w.getLsbD 0, irqEn := w.getLsbD 1 }

/-! ## The model's own fields -/

/-- A step begins: `rest` of the total order is left, and the bus port has answered nothing yet (logs 1, 11). -/
def State.take (s : State) (rest : List Event) : State := { s with order := rest, answer := none }

/-- The bus port answers (R65, log 11). -/
def State.answerWith (s : State) (a : Answer) : State := { s with answer := some a }

/-- `n` free values have been drawn (logs 7, 8). -/
def State.drawFree (s : State) (n : Nat) : State := { s with free := s.free + n }

/-! ## Engine accesses -/

/-- The engine touches the `n` bytes at `a`: they must exist in `MEM` (R43, log 10). -/
def State.withBytes (s : State) (a n : Nat) (k : Result) : Result :=
  if a + n ≤ s.cfg.memSize then k else .fault (.outsideMem a)

end Sys2Proof.Machine
end

