-- ==== Sys2Proof/Machine/Operands.lean ====
section
/-! DEFINITION. The operand forms of the commands: the codec window with its bounds check (20_memory.md R73,
R74), the scan bound (43_framelen.md R180, R182), and the record headers of the queue with their sanity check
(10_state.md R44, 40_queue.md R111, R113). The one immediate, `imm8`, is taken out of the word by the decoder. -/

namespace Sys2Proof.Machine

/-! ## The codec window -/

/-- `BASE + LEN + extra <= MEM_SIZE` in natural numbers (R74); `extra` is 4 for `APPENDFCS`, else 0. -/
abbrev State.windowFits (s : State) (extra : Nat) : Prop :=
  s.base.toNat + s.len.toNat + extra ≤ s.cfg.memSize

/-- `data = MEM[BASE .. BASE + LEN)`, a snapshot (R73). -/
def State.window (s : State) : List Byte := s.mem.slice s.base.toNat s.len.toNat

/-- Run a codec command on its window, or end it with `ERR_BOUNDS` and nothing else changed (R74). -/
def State.withWindow (s : State) (extra : Nat) (k : List Byte → Result) : Result :=
  if s.windowFits extra then k s.window else s.fail .bounds

/-- Write `out` over the start of the window (R150, R182). -/
def State.putWindow (s : State) (out : List Byte) : State := s.setMem (s.mem.putList s.base.toNat out)

/-- The scan bound `min(l, MAXLEN)` (R180, R182). -/
def State.scanBound (s : State) (l : Nat) : Nat := min l s.maxLen.toNat

/-! ## Records -/

/-- `HDR_BYTES`, the size of a record header (00_scope.md R7). -/
abbrev hdrBytes : Nat := 8

/-- `up4(x)`, the least multiple of 4 not below `x` (R12). -/
def up4 (x : Nat) : Nat := (x + 3) / 4 * 4

/-- `dn4(x)`, the greatest multiple of 4 not above `x` (R12). -/
def dn4 (x : Nat) : Nat := x / 4 * 4

/-- The footprint of a reservation of `maxSize` bytes, in natural numbers (R113). -/
def footprint (maxSize : Nat) : Nat := up4 (hdrBytes + maxSize)

/-- `fits(F, room)` (R113, 90_conflicts.md C6). -/
def fits (strict : Bool) (f room : Nat) : Bool := if strict then decide (f < room) else decide (f ≤ room)

/-- `dataBytes(off) = MemRead(off, 4)` (R44). -/
def State.dataBytes (s : State) (off : Nat) : Nat := (s.mem.read off .four).toNat

/-- `memBytes(off) = MemRead(off + 4, 4)` (R44). -/
def State.memBytes (s : State) (off : Nat) : Nat := (s.mem.read (off + 4) .four).toNat

/-- `hdrOk(off)` (R111), in natural numbers. -/
abbrev State.hdrOk (s : State) (off : Nat) : Prop :=
  off % 4 = 0 ∧ off + hdrBytes ≤ s.qcap.toNat ∧ s.memBytes off % 4 = 0 ∧
    hdrBytes + s.dataBytes off ≤ s.memBytes off ∧ off + s.memBytes off ≤ s.qcap.toNat

/-- Run `k` on the header at `off` if it is sane, else `fail Prog` (R111). A header inside the arena is read from
`MEM`, so it must exist there (log 10). -/
def State.withHeader (s : State) (off : Nat) (k : Result) : Result :=
  if off % 4 = 0 ∧ off + hdrBytes ≤ s.qcap.toNat then
    s.withBytes off hdrBytes (if s.hdrOk off then k else s.fail .prog)
  else s.fail .prog

/-- Write the header of the record at `off` (R44): `dataBytes <- d`, `memBytes <- m`. -/
def State.putHeader (s : State) (off d m : Nat) : State :=
  s.setMem ((s.mem.write off .four (BitVec.ofNat 32 d)).write (off + 4) .four (BitVec.ofNat 32 m))

/-- Write the `memBytes` field of the record at `off` (R44). -/
def State.putMemBytes (s : State) (off m : Nat) : State :=
  s.setMem (s.mem.write (off + 4) .four (BitVec.ofNat 32 m))

end Sys2Proof.Machine
end

