-- ==== Sys2Proof/Machine/Bus.lean ====
section
/-! DEFINITION. The bus port (20_memory.md R60, R65 to R70) and the register block behind it (10_state.md R22 to
R42, R53), with what an access does while `BUSY = 1` (30_encoding.md R101). -/

namespace Sys2Proof.Machine

/-- The 18 registers of the block (R22). -/
inductive RegName where
  | id | ctrl | status | cmd | base | len | maxLen | crc | midx | moff | drops | arg | recd | qdata | qdlen
  | qhead | qtail | qcap
deriving DecidableEq, Repr

/-- The offset of a register (R22). -/
def RegName.offset : RegName → Nat
  | .id => 0x00
  | .ctrl => 0x04
  | .status => 0x08
  | .cmd => 0x0C
  | .base => 0x10
  | .len => 0x14
  | .maxLen => 0x18
  | .crc => 0x1C
  | .midx => 0x20
  | .moff => 0x24
  | .drops => 0x28
  | .arg => 0x2C
  | .recd => 0x30
  | .qdata => 0x34
  | .qdlen => 0x38
  | .qhead => 0x3C
  | .qtail => 0x40
  | .qcap => 0x44

/-- The register at an offset of the block; none for the reserved offsets `0x48` to `0xFC` (R22, R70). -/
def regAt : Nat → Option RegName
  | 0x00 => some .id
  | 0x04 => some .ctrl
  | 0x08 => some .status
  | 0x0C => some .cmd
  | 0x10 => some .base
  | 0x14 => some .len
  | 0x18 => some .maxLen
  | 0x1C => some .crc
  | 0x20 => some .midx
  | 0x24 => some .moff
  | 0x28 => some .drops
  | 0x2C => some .arg
  | 0x30 => some .recd
  | 0x34 => some .qdata
  | 0x38 => some .qdlen
  | 0x3C => some .qhead
  | 0x40 => some .qtail
  | 0x44 => some .qcap
  | _ => none

/-- `ID` (R23): "FC", command set 1.0, bit 0 is `HAS_RPQ`. -/
def idWord (c : Config) : Word := (0x46431000 : Word) + (BitVec.ofBool c.hasRpq).setWidth 32

/-- The value of a register as it is laid out for the host (R22 to R42); `CMD` and a reserved offset read 0. -/
def State.regWord (s : State) : Option RegName → Word
  | some .id => idWord s.cfg
  | some .ctrl => s.ctrlWord
  | some .status => s.statusWord
  | some .cmd => 0
  | some .base => s.base
  | some .len => s.len
  | some .maxLen => s.maxLen
  | some .crc => s.crc
  | some .midx => s.midx
  | some .moff => s.moff
  | some .drops => s.drops
  | some .arg => s.arg
  | some .recd => s.recd
  | some .qdata => s.qdata
  | some .qdlen => s.qdlen
  | some .qhead => s.qhead
  | some .qtail => s.qtail
  | some .qcap => s.qcap
  | none => 0

/-- `ID`, `CTRL`, `STATUS`, `CMD` and the reserved offsets read as usual while `BUSY = 1` (R101 (b)); the others,
`BASE` through `QCAP`, return an unspecified value (R101 (c)). -/
def readsWhileBusy : Option RegName → Bool
  | some .id => true
  | some .ctrl => true
  | some .status => true
  | some .cmd => true
  | none => true
  | _ => false

/-- What a register write stores while `BUSY = 0` (R22, R53, R67): `CTRL`, `STATUS` and `CMD` as their rules say,
a RW register takes the word, a RO register and a reserved offset ignore it. -/
def State.storeReg (s : State) (v : Word) : Option RegName → State
  | some .id => s
  | some .ctrl => s.setCtrl v
  | some .status => s.ackStatus v
  | some .cmd => s.accept v
  | some .base => { s with base := v }
  | some .len => { s with len := v }
  | some .maxLen => { s with maxLen := v }
  | some .crc => s
  | some .midx => s
  | some .moff => s
  | some .drops => { s with drops := v }
  | some .arg => { s with arg := v }
  | some .recd => { s with recd := v }
  | some .qdata => s
  | some .qdlen => s
  | some .qhead => s
  | some .qtail => s
  | some .qcap => s
  | none => s

/-- A read whose value is unspecified (R101 (c)): a free value of the access width (log 7). -/
def State.readFree (s : State) (n : Size) : State :=
  (s.drawFree 1).answerWith (.data n (n.low (Config.freeWord s.free)))

/-- A register read (R67, R101). -/
def State.readReg (s : State) (r : Option RegName) : State :=
  if s.busy && !readsWhileBusy r then s.readFree .four else s.answerWith (.data .four (s.regWord r))

/-- A register write (R67, R101 (a)): while `BUSY = 1` it is dropped and noted, except the acknowledge. That this
covers read-only registers and reserved offsets too is DEDUCED (log 13). -/
def State.writeReg (s : State) (r : Option RegName) (v : Word) : State :=
  if s.busy && r != some .status then s.dropWrite.answerWith .completed
  else (s.storeReg v r).answerWith .completed

/-- A host read of `MEM` at `a` (R68, R101 (c)). -/
def State.readMem (s : State) (a : Nat) (n : Size) : State :=
  if s.busy then s.readFree n else s.answerWith (.data n (s.mem.read a n))

/-- A host write to `MEM` at `a` (R68, R101 (a)). -/
def State.writeMem (s : State) (a : Nat) (n : Size) (v : Word) : State :=
  if s.busy then s.dropWrite.answerWith .completed
  else (s.setMem (s.mem.write a n v)).answerWith .completed

/-- What a bus address selects (R69). -/
inductive Target where
  /-- neither range: not the FCU's (R65) -/
  | outside
  /-- the register block, at this offset -/
  | reg (offset : Nat)
  /-- `MEM`, at this address -/
  | mem (a : Nat)
deriving DecidableEq, Repr

/-- The two bus ranges of the FCU (R69). -/
def target (c : Config) (addr : Nat) : Target :=
  if c.regBase ≤ addr ∧ addr < c.regBase + 256 then .reg (addr - c.regBase)
  else if c.memBase ≤ addr ∧ addr < c.memBase + c.memSize then .mem (addr - c.memBase)
  else .outside

/-- A bus error (R66): a register access that is not 4 bytes and word-aligned, or a `MEM` access that is not
naturally aligned. -/
def isBusError (c : Config) (t : Transaction) : Bool :=
  match target c t.addr with
  | .outside => false
  | .reg _ => decide (t.size ≠ .four) || decide (t.addr % 4 ≠ 0)
  | .mem _ => decide (t.addr % t.size.bytes ≠ 0)

/-- One transaction (R65 to R70), a bus error first, whether or not `BUSY = 1` (R66). -/
def State.transact (s : State) (t : Transaction) : State :=
  if isBusError s.cfg t then s.answerWith .busError
  else
    match target s.cfg t.addr, t.op with
    | .outside, _ => s
    | .reg off, .read => s.readReg (regAt off)
    | .reg off, .write v => s.writeReg (regAt off) v
    | .mem a, .read => s.readMem a t.size
    | .mem a, .write v => s.writeMem a t.size v

end Sys2Proof.Machine
end

