-- ==== Sys2Proof/Machine/Align.lean ====
section
/-! DEFINITION. Bit-phase recovery (41_align.md): `locateFrame` and the command `LOCATE`. -/

namespace Sys2Proof.Machine

/-- `SFD_PATTERN` (00_scope.md R7): the last three preamble bytes and the start-of-frame delimiter in time order
(R144). -/
abbrev sfdPattern : Word := 0xAAAAAAAB

/-- `feed(acc, b, p)` (R142): shift left by two, the lower bit of the pair enters at bit 1. -/
def feed (acc : Word) (b : Byte) (p : Nat) : Word :=
  (acc <<< 2) ||| ((BitVec.ofBool (b.getLsbD p)).setWidth 32 <<< 1) ||| (BitVec.ofBool (b.getLsbD (p + 1))).setWidth 32

/-- The outcome of feeding some pairs: a match after pair `p`, or the accumulator left. -/
inductive PairScan where
  | matched (p : Nat)
  | more (acc : Word)
deriving DecidableEq, Repr

/-- Feed the pairs of one byte in the given order, comparing after each (R143). -/
def scanPairs (b : Byte) : List Nat → Word → PairScan
  | [], acc => .more acc
  | p :: ps, acc => if feed acc b p = sfdPattern then .matched p else scanPairs b ps (feed acc b p)

/-- Scan the bytes from index `m` on (R143): the bit number `s = 8m + p + 2` of the first bit after the first match
(R145), or none when the input exhausts (R149). -/
def scanBytes : List Byte → Nat → Word → Option Nat
  | [], _, _ => none
  | b :: bs, m, acc =>
    match scanPairs b [0, 2, 4, 6] acc with
    | .matched p => some (8 * m + p + 2)
    | .more acc' => scanBytes bs (m + 1) acc'

/-- Output byte `t` for the data start `(i, j)` (R147); for `j = 0` the successor is not used. -/
def realigned (data : List Byte) (i j t : Nat) : Byte :=
  if j = 0 then data.getD (i + t) 0
  else (data.getD (i + t) 0 >>> j) ||| (data.getD (i + t + 1) 0 <<< (8 - j))

/-- What `locateFrame` returns (R146). -/
inductive Located where
  | framingError
  | ok (out : List Byte) (n i j : Nat)
deriving DecidableEq, Repr

/-- `locateFrame(data)` (R146), with the output length of R148. -/
def locateFrame (data : List Byte) : Located :=
  match scanBytes data 0 0 with
  | none => .framingError
  | some s =>
    let i := s / 8
    let j := s % 8
    let n := (8 * data.length - s) / 8
    .ok ((List.range n).map (realigned data i j)) n i j

/-- The alignment results of `Ok(out, n, i, j)` in the registers and in `MEM` (R150, R182). -/
def State.putLocated (s : State) (out : List Byte) (n i j : Nat) : State :=
  ((s.putWindow out).setLen (BitVec.ofNat 32 n)).setMatch (BitVec.ofNat 32 i) (BitVec.ofNat 32 j)

/-- `LOCATE` (R150). -/
def execLocate (s : State) : Result :=
  s.withWindow 0 fun data =>
    match locateFrame data with
    | .framingError => s.fail .framing
    | .ok out n i j => (s.putLocated out n i j).finish

end Sys2Proof.Machine
end

