-- ==== Sys2Proof/Machine/Crc.lean ====
section
/-! DEFINITION. The CRC-32 function and its four commands (42_crc.md). -/

namespace Sys2Proof.Machine

/-- `CRC_PRESET` and `CRC_XOROUT` (00_scope.md R7). -/
abbrev crcOnes : Word := 0xFFFFFFFF

/-- `CRC_TABLE[0 .. 15]` (R157). -/
def crcTable : List Word :=
  [0x00000000, 0x1DB71064, 0x3B6E20C8, 0x26D930AC, 0x76DC4190, 0x6B6B51F4, 0x4DB26158, 0x5005713C,
   0xEDB88320, 0xF00F9344, 0xD6D6A3E8, 0xCB61B38C, 0x9B64C2B0, 0x86D3D2D4, 0xA00AE278, 0xBDBDF21C]

/-- `CRC_TABLE[n]` (R157). -/
def crcEntry (n : BitVec 4) : Word := crcTable.getD n.toNat 0

/-- The nibble step on the raw register (R156). -/
def crcNibble (r : Word) (n : BitVec 4) : Word := (r >>> 4) ^^^ crcEntry (r.extractLsb' 0 4 ^^^ n)

/-- One byte on the raw register: the low nibble, then the high nibble (R159). -/
def crcRaw (r : Word) (b : Byte) : Word :=
  crcNibble (crcNibble r (b.extractLsb' 0 4)) (b.extractLsb' 4 4)

/-- One byte on the finished value (R158, R159). -/
def crcByte (c : Word) (b : Byte) : Word := crcRaw (c ^^^ crcOnes) b ^^^ crcOnes

/-- `fcs(data)` (R160). -/
def fcs (data : List Byte) : Word := data.foldl crcByte 0x00000000

/-- `le4(c)` (R161), the check sequence as it stands after the payload. -/
def le4 (c : Word) : List Byte := leBytes 4 c

/-- `CRCINIT` (R163). -/
def execCrcinit (s : State) : Result := (s.setCrc 0x00000000).finish

/-- `CRCBYTE imm8` (R164). -/
def execCrcbyte (imm8 : Byte) (s : State) : Result := (s.setCrc (crcByte s.crc imm8)).finish

/-- `GENFCS` (R165). -/
def execGenfcs (s : State) : Result :=
  s.withWindow 0 fun data => (s.setCrc (fcs data)).finish

/-- `APPENDFCS` (R166). -/
def execAppendfcs (s : State) : Result :=
  s.withWindow 4 fun data =>
    let c := fcs data
    (((s.setMem (s.mem.write (s.base.toNat + s.len.toNat) .four c)).setCrc c).setLen (s.len + 4)).finish

end Sys2Proof.Machine
end

