-- ==== Sys2Proof/Machine/FrameLen.lean ====
section
/-! DEFINITION. The frame-boundary detector and the composite (43_framelen.md): `determineLength`, `validate`,
and the commands `DETLEN` and `VALIDATE`. -/

namespace Sys2Proof.Machine

/-- What `determineLength` returns (R176). -/
inductive Bounded where
  | fcsMismatch
  | ok (length : Nat) (c : Word)
deriving DecidableEq, Repr

/-- The candidate loop of R176: `rest` is `data[k ..)`, `c` is `fcs` of `data[0 .. k)`, `n` candidates are left,
the next one is the end offset `k + 4`. -/
def scanEnds : Nat → List Byte → Nat → Word → Bounded
  | 0, _, _, _ => .fcsMismatch
  | n + 1, rest, k, c =>
    if rest.take 4 = le4 c then .ok k c
    else
      match rest with
      | [] => .fcsMismatch
      | b :: bs => scanEnds n bs (k + 1) (crcByte c b)

/-- `determineLength(data, maxLength)` (R176), candidates 4 to `maxLength`, both included (R178). -/
def determineLength (data : List Byte) (maxLength : Nat) : Bounded :=
  scanEnds (maxLength - 3) data 0 0x00000000

/-- The verdict of `validate` (R181). -/
inductive Verdict where
  | ok | framing | short | fcs
deriving DecidableEq, Repr

/-- The stages of `validate` after alignment (R181): the length test, then the boundary search. The length kept is
the payload's on success, else that of `buf`. -/
def judge (buf : List Byte) (cap : Nat) : Verdict × Nat × Option Word :=
  if buf.length < 4 then (.short, buf.length, none)
  else
    match determineLength buf (min buf.length cap) with
    | .fcsMismatch => (.fcs, buf.length, none)
    | .ok length c => (.ok, length, some c)

/-- `validate(data, alignEn, cap)` (R181): the verdict, the bytes and the length left in the buffer. -/
def validate (data : List Byte) (alignEn : Bool) (cap : Nat) : Verdict × List Byte × Nat :=
  if alignEn then
    match locateFrame data with
    | .framingError => (.framing, data, data.length)
    | .ok out _ _ _ => ((judge out cap).1, out, (judge out cap).2.1)
  else ((judge data cap).1, data, (judge data cap).2.1)

/-- `DETLEN` (R180). -/
def execDetlen (s : State) : Result :=
  s.withWindow 0 fun data =>
    match determineLength data (s.scanBound s.len.toNat) with
    | .fcsMismatch => s.fail .fcs
    | .ok length c => ((s.setLen (BitVec.ofNat 32 length)).setCrc c).finish

/-- `VALIDATE` from its length test on (R182), on the `L1` bytes of `data`. -/
def State.validateAligned (s : State) (data : List Byte) : Result :=
  if data.length < 4 then s.bumpDrops.fail .short
  else
    match determineLength data (s.scanBound data.length) with
    | .fcsMismatch => s.bumpDrops.fail .fcs
    | .ok length c => ((s.setLen (BitVec.ofNat 32 length)).setCrc c).finish

/-- `VALIDATE` (R182). -/
def execValidate (s : State) : Result :=
  s.withWindow 0 fun data =>
    if s.alignEn then
      match locateFrame data with
      | .framingError => s.bumpDrops.fail .framing
      | .ok out n i j => (s.putLocated out n i j).validateAligned out
    else s.validateAligned data

end Sys2Proof.Machine
end

