-- ==== Sys2Proof/Machine/Queue.lean ====
section
/-! DEFINITION. The Ring Packet Queue unit (40_queue.md): `QINIT`, `QRESERVE`, `QCOMMIT`, `QPEEK`, `QCONSUME`. -/

namespace Sys2Proof.Machine

/-- `QINIT` (R112). -/
def execQinit (s : State) : Result :=
  if s.arg.toNat % 4 ≠ 0 ∨ s.cfg.memSize < s.arg.toNat then s.fail .badArg
  else ((s.setCap s.arg).setEnds noneOffset noneOffset).finish

/-- Where a record of footprint `f` goes in a non-empty queue (R114): its offset and the pad of the old tail, or
none when no contiguous room fits. `rp` is the read position, `wp` the write position (R110). -/
def place (strict : Bool) (f cap rp wp : Nat) : Option (Nat × Nat) :=
  if rp = wp then none
  else if rp < wp then
    if fits strict f (cap - wp) then some (wp, 0)
    else if fits strict f rp then some (0, cap - wp)
    else none
  else if fits strict f (rp - wp) then some (wp, 0)
  else none

/-- The write position `(offset(tail) + memBytes(tail)) mod capacity` (R110). -/
def State.writePos (s : State) : Nat := (s.qtail.toNat + s.memBytes s.qtail.toNat) % s.qcap.toNat

/-- The mutations of `QRESERVE` for a new record at `off` (R114), after the old tail has been padded. -/
def State.reserveAt (s : State) (off f : Nat) : Result :=
  s.withBytes off hdrBytes
    ((((s.putHeader off s.arg.toNat f).setEnds
          (if s.qhead = noneOffset then 0 else s.qhead) (BitVec.ofNat 32 off)).setRec
        (BitVec.ofNat 32 off)).setView (BitVec.ofNat 32 (off + hdrBytes)) s.arg).finish

/-- Pad the tail by `pad` bytes up to the arena end, if the placement wraps (R114). -/
def State.padTail (s : State) (pad : Nat) : State :=
  if 0 < pad then s.putMemBytes s.qtail.toNat (s.memBytes s.qtail.toNat + pad) else s

/-- `QRESERVE` (R114). -/
def execQreserve (s : State) : Result :=
  let f := footprint s.arg.toNat
  if s.qhead = noneOffset then
    if s.qcap.toNat < f then s.fail .alloc else s.reserveAt 0 f
  else
    s.withHeader s.qtail.toNat
      (match place s.cfg.qStrictFit f s.qcap.toNat s.qhead.toNat s.writePos with
        | none => s.fail .alloc
        | some (off, pad) => (s.padTail pad).reserveAt off f)

/-- `QCOMMIT` (R117). -/
def execQcommit (s : State) : Result :=
  if s.qtail = noneOffset ∨ s.recd ≠ s.qtail then s.fail .prog
  else
    let r := s.recd.toNat
    s.withHeader r
      (if s.dataBytes r < s.arg.toNat then s.fail .prog
      else
        ((s.putHeader r s.arg.toNat (s.memBytes r - dn4 (s.dataBytes r - s.arg.toNat))).setView
          (BitVec.ofNat 32 (r + hdrBytes)) s.arg).finish)

/-- `QPEEK` (R119). -/
def execQpeek (s : State) : Result :=
  if s.qhead = noneOffset then ((s.setRec noneOffset).setView noneOffset 0).finish
  else
    let h := s.qhead.toNat
    s.withHeader h
      ((s.setRec s.qhead).setView (BitVec.ofNat 32 (h + hdrBytes)) (BitVec.ofNat 32 (s.dataBytes h))).finish

/-- `QCONSUME` (R120). -/
def execQconsume (s : State) : Result :=
  if s.qhead = noneOffset then s.finish
  else if s.qhead = s.qtail then (s.setEnds noneOffset noneOffset).finish
  else
    let h := s.qhead.toNat
    s.withHeader h ((s.setEnds (BitVec.ofNat 32 ((h + s.memBytes h) % s.qcap.toNat)) s.qtail).finish)

end Sys2Proof.Machine
end

