-- ==== Sys2Proof/Machine/System.lean ====
section
/-! DEFINITION. The system command (44_system.md). -/

namespace Sys2Proof.Machine

/-- `NOP` (R195): `complete(0)`. -/
def execNop (s : State) : Result := s.finish

end Sys2Proof.Machine
end

