-- ==== Sys2Proof/Machine/Dispatch.lean ====
section
/-! DEFINITION. Which meaning each command has: one arm per constructor of Instr. -/

namespace Sys2Proof.Machine

def exec (i : Instr) (s : State) : Host.Outcome State Fault Refusal :=
  match i with
  | .nop => Sys2Proof.Machine.execNop s
  | .locate => Sys2Proof.Machine.execLocate s
  | .genfcs => Sys2Proof.Machine.execGenfcs s
  | .detlen => Sys2Proof.Machine.execDetlen s
  | .validate => Sys2Proof.Machine.execValidate s
  | .appendfcs => Sys2Proof.Machine.execAppendfcs s
  | .crcinit => Sys2Proof.Machine.execCrcinit s
  | .crcbyte imm8 => Sys2Proof.Machine.execCrcbyte imm8 s
  | .qinit => Sys2Proof.Machine.execQinit s
  | .qreserve => Sys2Proof.Machine.execQreserve s
  | .qcommit => Sys2Proof.Machine.execQcommit s
  | .qpeek => Sys2Proof.Machine.execQpeek s
  | .qconsume => Sys2Proof.Machine.execQconsume s

end Sys2Proof.Machine
end

