-- ==== Sys2Proof/WellFormed.lean ====
section
/-! DEFINITION. Which commands a build has (30_encoding.md R95 (c)). The immediate of `crcbyte` is a byte by
its type, so the one check left is that a queue command needs the queue unit. -/

namespace Sys2Proof

/-- A command is well formed for a build with `HAS_RPQ = hasRpq`: the queue commands need the unit (R95 (c)). -/
def Instr.wf (hasRpq : Bool) (i : Instr) : Bool :=
  hasRpq || !i.isQueue

end Sys2Proof
end

