-- ==== Sys2Proof/Decode.lean ====
section
/-! DEFINITION. Command words (30_encoding.md R90 to R95): the fields of a word, the decoder, which is total
and names why a word is illegal, and the encoder, written from the same table. -/

namespace Sys2Proof

/-- Why a word is illegal: the three grounds of 30_encoding.md R95. -/
inductive IllegalCause where
  /-- (a) `op` is none of the thirteen values -/
  | unknownOp
  /-- (b) the must-be-zero field is not 0 -/
  | nonzeroField
  /-- (c) a queue command and `HAS_RPQ = 0` -/
  | noQueueUnit
deriving DecidableEq, Repr

/-- What a word decodes to (R94): exactly one command, or illegal. -/
inductive Decoded where
  | instr (i : Instr)
  | illegal (c : IllegalCause)
deriving DecidableEq, Repr

/-- `op = w[7:0]` (R91). -/
def opField (w : Word) : BitVec 8 := w.extractLsb' 0 8

/-- `imm8 = w[15:8]` (R91), an unsigned byte used as it stands (R92). -/
def immField (w : Word) : Byte := w.extractLsb' 8 8

/-- The must-be-zero field of format Z, `w[31:8]` (R91). -/
def zeroFieldZ (w : Word) : BitVec 24 := w.extractLsb' 8 24

/-- The must-be-zero field of format I, `w[31:16]` (R91). -/
def zeroFieldI (w : Word) : BitVec 16 := w.extractLsb' 16 16

/-- A format Z command with this `op`: legal if bits 31:8 are 0 and the build has it (R90, R95). -/
def decodeZ (hasRpq : Bool) (w : Word) (i : Instr) : Decoded :=
  if zeroFieldZ w = 0 then
    if i.wf hasRpq then .instr i else .illegal .noQueueUnit
  else .illegal .nonzeroField

/-- The format I command: legal if bits 31:16 are 0 (R90, R95). -/
def decodeI (w : Word) (i : Byte → Instr) : Decoded :=
  if zeroFieldI w = 0 then .instr (i (immField w)) else .illegal .nonzeroField

/-- The decoder (R93, R94, R95), total on every 32-bit word. -/
def decode (hasRpq : Bool) (w : Word) : Decoded :=
  match (opField w).toNat with
  | 0x00 => decodeZ hasRpq w .nop
  | 0x01 => decodeZ hasRpq w .locate
  | 0x02 => decodeZ hasRpq w .genfcs
  | 0x03 => decodeZ hasRpq w .detlen
  | 0x04 => decodeZ hasRpq w .validate
  | 0x05 => decodeZ hasRpq w .appendfcs
  | 0x06 => decodeZ hasRpq w .crcinit
  | 0x07 => decodeI w .crcbyte
  | 0x10 => decodeZ hasRpq w .qinit
  | 0x11 => decodeZ hasRpq w .qreserve
  | 0x12 => decodeZ hasRpq w .qcommit
  | 0x13 => decodeZ hasRpq w .qpeek
  | 0x14 => decodeZ hasRpq w .qconsume
  | _ => .illegal .unknownOp

/-- A format Z word: `op` in 7:0, zeros above (R90). -/
def encodeZ (op : BitVec 8) : Word := (0 : BitVec 24) ++ op

/-- A format I word: `op` in 7:0, `imm8` in 15:8, zeros above (R90). -/
def encodeI (imm8 : Byte) (op : BitVec 8) : Word := (0 : BitVec 16) ++ imm8 ++ op

/-- The command word of each command (the column `word` of R93). -/
def encode : Instr → Word
  | .nop => encodeZ 0x00
  | .locate => encodeZ 0x01
  | .genfcs => encodeZ 0x02
  | .detlen => encodeZ 0x03
  | .validate => encodeZ 0x04
  | .appendfcs => encodeZ 0x05
  | .crcinit => encodeZ 0x06
  | .crcbyte imm8 => encodeI imm8 0x07
  | .qinit => encodeZ 0x10
  | .qreserve => encodeZ 0x11
  | .qcommit => encodeZ 0x12
  | .qpeek => encodeZ 0x13
  | .qconsume => encodeZ 0x14

/-- A word as spec/opcode_table.json numbers its bits. A command is one 32-bit register write (R90), so there is
no byte layout: bit `k` of `w` is bit `k` of the word, and bits from `nbits` up are 0. -/
def tableWord (nbits w : Nat) : Word := BitVec.ofNat 32 (w % 2 ^ nbits)

/-- What the decoder reads from a table word, on a build that has every command (`HAS_RPQ = 1`). -/
def decodeTableWord (nbits w : Nat) : Option Instr :=
  match decode true (tableWord nbits w) with
  | .instr i => some i
  | .illegal _ => none

end Sys2Proof
end

