-- ==== Sys2Proof/Machine/Engine.lean ====
section
/-! DEFINITION. The common prologue of every command (30_encoding.md R100): this hardware's fetch and decode. -/

namespace Sys2Proof.Machine

/-- What the prologue leaves: the command ended already, or its own rule runs. -/
inductive Prologue where
  | ended (s : State)
  | run (i : Instr)
deriving DecidableEq, Repr

/-- The prologue on the word in `PEND` (R100): FATAL first, then the illegal words, then the command's rule. -/
def State.prologue (s : State) : Prologue :=
  if s.fatal then .ended (s.complete .halted)
  else
    match decode s.cfg.hasRpq s.pend with
    | .illegal _ => .ended (s.complete .illcmd)
    | .instr i => .run i

end Sys2Proof.Machine
end

