-- ==== Sys2Proof/Machine/Reset.lean ====
section
/-! DEFINITION. The reset transition (70_reset_and_hazards.md R235, R238). -/

namespace Sys2Proof.Machine

/-- The part of `MEM` the pending command may write, as (address, length) ranges (R238, R73). The list is R238's,
by command alone; with an empty queue `QRESERVE` has the one offset 0 (log 8). -/
def State.writeRegion (s : State) : List (Nat × Nat) :=
  match decode s.cfg.hasRpq s.pend with
  | .illegal _ => []
  | .instr .nop => []
  | .instr .locate => [(s.base.toNat, s.len.toNat)]
  | .instr .genfcs => []
  | .instr .detlen => []
  | .instr .validate => [(s.base.toNat, s.len.toNat)]
  | .instr .appendfcs => [(s.base.toNat + s.len.toNat, 4)]
  | .instr .crcinit => []
  | .instr (.crcbyte _) => []
  | .instr .qinit => []
  | .instr .qreserve =>
    if s.qtail = noneOffset then [(0, hdrBytes)]
    else [(s.qtail.toNat + 4, 4), (s.writePos, hdrBytes), (0, hdrBytes)]
  | .instr .qcommit => [(s.recd.toNat, hdrBytes)]
  | .instr .qpeek => []
  | .instr .qconsume => []

/-- How much of the range `[a, a + n)` lies inside `MEM` (R43). -/
def clipped (memSize a n : Nat) : Nat := min n (memSize - a)

/-- Every byte of the ranges, as far as `MEM` has it, takes an unspecified value (R238): free values (log 8). -/
def State.scramble (s : State) : List (Nat × Nat) → State
  | [] => s
  | (a, n) :: rest =>
    let k := clipped s.cfg.memSize a n
    ((s.setMem (s.mem.putFree a s.free k)).drawFree k).scramble rest

/-- The reset transition: every register takes the value of R51 (R235); `MEM` is kept, but for the bytes a pending
command may have been writing (R238). -/
def State.resetStep (s : State) : State :=
  let s' := if s.busy then s.scramble s.writeRegion else s
  State.resetOf s'.cfg s'.mem s'.order s'.free

end Sys2Proof.Machine
end

