-- ==== Sys2Proof/Machine/Step.lean ====
section
/-! DEFINITION. One step of the machine: the next event of the total order (20_memory.md R75), and how the host
places a word as the next command. -/

namespace Sys2Proof.Machine

/-- The engine step (30_encoding.md R98): the prologue, then the command's own rule (R100). -/
def engineStep (s : State) : Host.Outcome State Fault Refusal :=
  match s.prologue with
  | .ended s' => .next s'
  | .run i => exec i s

/-- The engine has a step exactly when `BUSY = 1` (R98); otherwise nothing happens (log 2). -/
def engineTurn (s : State) : Host.Outcome State Fault Refusal :=
  if s.busy then engineStep s else .next s

/-- One step: the next event of the total order. When the order is used up the engine takes a step that is
enabled (weak fairness, R98), and an idle FCU keeps its state (R229); log 1. -/
def step (s : State) : Host.Outcome State Fault Refusal :=
  match s.order with
  | [] => engineTurn (s.take [])
  | .engine :: rest => engineTurn (s.take rest)
  | .bus t :: rest => .next ((s.take rest).transact t)
  | .reset :: rest => .next (s.take rest).resetStep

/-- `s` with the word `w` accepted as the next command (R97) and the engine step next in the total order, so that
the very next step runs it (log 9). -/
def State.withFetchWord (s : State) (nbits w : Nat) : State :=
  { s.accept (tableWord nbits w) with order := .engine :: s.order }

end Sys2Proof.Machine
end

