-- ==== Sys2Proof/Machine/Script.lean ====
section
/-! DEFINITION. The host notation (30_encoding.md R102 to R104): each line of a script as the events it puts into
the total order. `WAIT` is a loop of the host; here it says how many polls see `BUSY = 1` before the engine
step (log 15). -/

namespace Sys2Proof.Machine

/-- The lines and pseudo-operations of R102 and R103 that are transactions, and the harness line `RESET`
(95_test_vectors.md section 1). -/
inductive ScriptLine where
  | wr (r : RegName) (v : Word)
  | rd (r : RegName)
  | stb (a : Nat) (b : Byte)
  | stw (a : Nat) (v : Word)
  | ldb (a : Nat)
  | ldw (a : Nat)
  | cmd (w : Word)
  | wait (polls : Nat)
  | run (w : Word) (polls : Nat)
  | load (a : Nat) (bs : List Byte)
  | ack
  | reset
deriving DecidableEq, Repr

/-- `WR <reg>, <value>` (R102). -/
def wrEvent (c : Config) (r : RegName) (v : Word) : Event := .bus ⟨c.regBase + r.offset, .four, .write v⟩

/-- `RD <reg>` (R102). -/
def rdEvent (c : Config) (r : RegName) : Event := .bus ⟨c.regBase + r.offset, .four, .read⟩

/-- `STB <a>, <byte>` (R102). -/
def stbEvent (c : Config) (a : Nat) (b : Byte) : Event := .bus ⟨c.memBase + a, .one, .write (b.setWidth 32)⟩

/-- `STB a, b0`, `STB a+1, b1`, and so on (R103). -/
def loadEvents (c : Config) : Nat → List Byte → List Event
  | _, [] => []
  | a, b :: bs => stbEvent c a b :: loadEvents c (a + 1) bs

/-- `WAIT` (R103): polls that see `BUSY = 1`, the engine step, and the poll that sees `BUSY = 0`. -/
def waitEvents (c : Config) (polls : Nat) : List Event :=
  List.replicate polls (rdEvent c .status) ++ [.engine, rdEvent c .status]

/-- The events of a line (R102, R103). -/
def ScriptLine.events (c : Config) : ScriptLine → List Event
  | .wr r v => [wrEvent c r v]
  | .rd r => [rdEvent c r]
  | .stb a b => [stbEvent c a b]
  | .stw a v => [.bus ⟨c.memBase + a, .four, .write v⟩]
  | .ldb a => [.bus ⟨c.memBase + a, .one, .read⟩]
  | .ldw a => [.bus ⟨c.memBase + a, .four, .read⟩]
  | .cmd w => [wrEvent c .cmd w]
  | .wait polls => waitEvents c polls
  | .run w polls => wrEvent c .cmd w :: waitEvents c polls
  | .load a bs => loadEvents c a bs
  | .ack => [wrEvent c .status 0x00000002]
  | .reset => [.reset]

/-- The events of a script, line after line (R102). -/
def scriptEvents (c : Config) : List ScriptLine → List Event
  | [] => []
  | l :: ls => l.events c ++ scriptEvents c ls

/-- `RUN <op>` of a command of the table (R103). -/
def runLine (i : Instr) (polls : Nat) : ScriptLine := .run (encode i) polls

/-- The seven calls of D0 that R104 gives scripts for. -/
inductive D0Call where
  | validate (buffer length : Word)
  | generateFcs (buffer length : Word)
  | reserve (maxSize : Word)
  | commit (record actualSize : Word)
  | peek
  | consume
  | init (capacity : Word)
deriving DecidableEq, Repr

/-- The script of a call (R104), each `RUN` with this many polls before the engine step. -/
def D0Call.script (polls : Nat) : D0Call → List ScriptLine
  | .validate b l => [.wr .base b, .wr .len l, runLine .validate polls, .rd .status, .rd .len]
  | .generateFcs b l => [.wr .base b, .wr .len l, runLine .genfcs polls, .rd .crc]
  | .reserve n => [.wr .arg n, runLine .qreserve polls, .rd .status, .rd .recd]
  | .commit r n => [.wr .recd r, .wr .arg n, runLine .qcommit polls]
  | .peek => [runLine .qpeek polls, .rd .recd]
  | .consume => [runLine .qconsume polls]
  | .init c => [.wr .arg c, runLine .qinit polls]

end Sys2Proof.Machine
end

