-- ==== Sys2Proof/Safety.lean ====
section
/-! DEFINITION. What counts as a safe state and a safe run: the invariant of every reachable state, and the queue
invariants of 10_state.md R45 and R46. -/

namespace Sys2Proof.Machine

/-- The status flags agree (10_state.md R25): while `BUSY = 1` the others are clear, `OK = 1` means no error code,
and the fatal code stands beside `FATAL`. -/
abbrev State.flagsInv (s : State) : Prop :=
  (s.busy = true → s.done = false ∧ s.ok = false ∧ s.err = .noError) ∧
    (s.ok = true → s.err = .noError) ∧ (s.err = .prog → s.fatal = true)

/-- `MEM` is in canonical form and lies in `MEM[0 .. MEM_SIZE)` (R43). -/
abbrev State.memInv (s : State) : Prop :=
  s.mem.wf = true ∧ s.mem.within s.cfg.memSize = true

/-- The queue registers (R46 (1), (6), and the alignment of (3)), whatever the bytes of `MEM` are. -/
abbrev State.queueRegsInv (s : State) : Prop :=
  s.qcap.toNat % 4 = 0 ∧ s.qcap.toNat ≤ s.cfg.memSize ∧ (s.qhead = noneOffset ↔ s.qtail = noneOffset) ∧
    (s.qhead ≠ noneOffset → s.qhead.toNat % 4 = 0 ∧ s.qhead.toNat < s.qcap.toNat) ∧
    (s.qtail ≠ noneOffset → s.qtail.toNat % 4 = 0 ∧ s.qtail.toNat + hdrBytes ≤ s.qcap.toNat)

/-- Without the queue unit its result and state registers hold their reset values for ever (R42). -/
abbrev State.noQueueInv (s : State) : Prop :=
  s.cfg.hasRpq = false →
    s.qdata = noneOffset ∧ s.qdlen = 0 ∧ s.qhead = noneOffset ∧ s.qtail = noneOffset ∧ s.qcap = 0

/-- The invariant of every state a run can reach on a legal build, under any host. -/
abbrev State.Inv (s : State) : Prop :=
  s.cfg.wf ∧ s.flagsInv ∧ s.memInv ∧ s.queueRegsInv ∧ s.noQueueInv

/-- The walk of R45 from `o` on: `o`, then the offset the record at `o` leads to, and so on, ending with the first
that equals `QTAIL`. -/
def State.walk (s : State) : Nat → List Nat → Prop
  | o, [] => o = s.qtail.toNat
  | o, o' :: rest => o ≠ s.qtail.toNat ∧ o' = (o + s.memBytes o) % s.qcap.toNat ∧ s.walk o' rest

/-- `recs` are the offsets of the live records, oldest first (R45). -/
def State.live (s : State) : List Nat → Prop
  | [] => s.qhead = noneOffset ∧ s.qtail = noneOffset
  | o :: rest => s.qhead ≠ noneOffset ∧ s.qtail ≠ noneOffset ∧ o = s.qhead.toNat ∧ s.walk o rest

/-- Two records do not overlap (R46 (5)). -/
def State.apart (s : State) (o o' : Nat) : Prop := o + s.memBytes o ≤ o' ∨ o' + s.memBytes o' ≤ o

/-- The sum of `memBytes` over some records (R46 (5)). -/
def State.occupied (s : State) (recs : List Nat) : Nat := (recs.map s.memBytes).sum

/-- The queue invariants of R46 for the live records `recs`: (1) and (2) in `live`, (3) in `hdrOk`, (5) and (6). -/
structure State.QueueInv (s : State) (recs : List Nat) : Prop where
  live : s.live recs
  headers : ∀ o ∈ recs, s.hdrOk o
  apart : recs.Pairwise s.apart
  sum : s.occupied recs ≤ s.qcap.toNat
  cap : s.qcap.toNat % 4 = 0 ∧ s.qcap.toNat ≤ s.cfg.memSize

end Sys2Proof.Machine
end

