-- ==== Sys2Proof/Certificates/Slice0/Obligations.lean ====
section
/-! DEFINITION. The statements for the provers, one `def Obligations.<Name> : Prop` each, and the words they are
written in. The words (`Sys2Proof.Claims`) are spelled out from the rules, not through the model's own operations,
wherever a statement would otherwise repeat a definition. -/

namespace Sys2Proof.Claims

open Sys2Proof.Machine

/-! ## Words of the statements -/

/-- `s` after `complete(code)` (30_encoding.md R99), field by field. -/
def ended (s : State) (e : ErrCode) : State :=
  { s with
    busy := false
    done := true
    err := e
    ok := decide (e = .noError)
    fatal := s.fatal || decide (e = .prog) }

/-- The engine step is the next event: it stands at the head of the total order, or the order is used up
(log 1), and `BUSY = 1`. -/
def EngineDue (s : State) (rest : List Event) : Prop :=
  (s.order = .engine :: rest ∨ (s.order = [] ∧ rest = [])) ∧ s.busy = true

/-- What every step does to the model's own fields before anything else: the event is taken off the order, and the
bus port has not answered yet (logs 1, 11). -/
def begun (s : State) (rest : List Event) : State := { s with order := rest, answer := none }

/-- Byte `k` of a number stored little-endian (20_memory.md R61). -/
def byteOf (v k : Nat) : Byte := BitVec.ofNat 8 (v / 256 ^ k)

/-- The little-endian value of the four bytes at `a` (00_scope.md R14). -/
def wordAt (m : Memory) (a : Nat) : Nat :=
  (m.byteAt a).toNat + 256 * (m.byteAt (a + 1)).toNat + 256 ^ 2 * (m.byteAt (a + 2)).toNat +
    256 ^ 3 * (m.byteAt (a + 3)).toNat

/-- `m'` is `m` with `bs` stored at `a`, and every other byte as before. -/
def Stored (m m' : Memory) (a : Nat) (bs : List Byte) : Prop :=
  ∀ x, m'.byteAt x = if a ≤ x ∧ x < a + bs.length then bs.getD (x - a) 0 else m.byteAt x

/-- `MEM[BASE .. BASE + LEN)` (20_memory.md R73). -/
def windowBytes (s : State) : List Byte :=
  (List.range s.len.toNat).map fun k => s.mem.byteAt (s.base.toNat + k)

/-- `BASE + LEN + extra <= MEM_SIZE` in natural numbers (20_memory.md R74). -/
def Fits (s : State) (extra : Nat) : Prop := s.base.toNat + s.len.toNat + extra ≤ s.cfg.memSize

/-- `le4(c)` (42_crc.md R161). -/
def leFour (c : Word) : List Byte :=
  [c.extractLsb' 0 8, c.extractLsb' 8 8, c.extractLsb' 16 8, c.extractLsb' 24 8]

/-- The four bytes after the first `k` equal the check sequence of the first `k` (43_framelen.md R176). -/
def SelfMatches (data : List Byte) (k : Nat) : Prop := (data.drop k).take 4 = leFour (fcs (data.take k))

/-- The number of an error code (60_exceptions.md R205). -/
def errNumber : ErrCode → Nat
  | .noError => 0
  | .framing => 1
  | .fcs => 2
  | .short => 3
  | .alloc => 4
  | .prog => 5
  | .illcmd => 6
  | .bounds => 7
  | .badArg => 8
  | .halted => 9

/-- `STATUS` as a number (10_state.md R25). -/
def statusNumber (s : State) : Nat :=
  s.busy.toNat + 2 * s.done.toNat + 4 * s.ok.toNat + 8 * s.fatal.toNat + 16 * errNumber s.err + 256 * s.busyErr.toNat

/-- What the word at offset `o` of the register block reads as (10_state.md R22 to R41). -/
def blockValue (s : State) (o : Nat) : Word :=
  if o = 0x00 then BitVec.ofNat 32 (0x46431000 + s.cfg.hasRpq.toNat)
  else if o = 0x04 then BitVec.ofNat 32 (s.alignEn.toNat + 2 * s.irqEn.toNat)
  else if o = 0x08 then BitVec.ofNat 32 (statusNumber s)
  else if o = 0x0C then 0
  else if o = 0x10 then s.base
  else if o = 0x14 then s.len
  else if o = 0x18 then s.maxLen
  else if o = 0x1C then s.crc
  else if o = 0x20 then s.midx
  else if o = 0x24 then s.moff
  else if o = 0x28 then s.drops
  else if o = 0x2C then s.arg
  else if o = 0x30 then s.recd
  else if o = 0x34 then s.qdata
  else if o = 0x38 then s.qdlen
  else if o = 0x3C then s.qhead
  else if o = 0x40 then s.qtail
  else if o = 0x44 then s.qcap
  else 0

/-- `s` after a write of `v` to offset `o` of the register block while idle, `CMD` apart (10_state.md R22, R24,
R53, 44_system.md R196). -/
def blockStored (s : State) (o : Nat) (v : Word) : State :=
  if o = 0x04 then { s with alignEn := v.getLsbD 0, irqEn := v.getLsbD 1 }
  else if o = 0x08 then { s with done := s.done && !v.getLsbD 1, busyErr := s.busyErr && !v.getLsbD 8 }
  else if o = 0x10 then { s with base := v }
  else if o = 0x14 then { s with len := v }
  else if o = 0x18 then { s with maxLen := v }
  else if o = 0x28 then { s with drops := v }
  else if o = 0x2C then { s with arg := v }
  else if o = 0x30 then { s with recd := v }
  else s

/-- `BASE` through `QCAP`: the registers whose reads are unspecified while `BUSY = 1` (30_encoding.md R101 (c)). -/
def IsDataOffset (o : Nat) : Prop := 0x10 ≤ o ∧ o < 0x48

/-- The address lies in the register block (20_memory.md R69). -/
def InBlock (c : Config) (a : Nat) : Prop := c.regBase ≤ a ∧ a < c.regBase + 256

/-- The address lies in the window onto `MEM` (20_memory.md R69). -/
def InMem (c : Config) (a : Nat) : Prop := c.memBase ≤ a ∧ a < c.memBase + c.memSize

/-- A word is illegal on a build (30_encoding.md R95), by arithmetic on the word. -/
def IllegalWord (hasRpq : Bool) (w : Word) : Prop :=
  w.toNat % 256 ∉ [0x00, 0x01, 0x02, 0x03, 0x04, 0x05, 0x06, 0x07, 0x10, 0x11, 0x12, 0x13, 0x14] ∨
    (w.toNat % 256 ≠ 0x07 ∧ w.toNat / 256 ≠ 0) ∨ (w.toNat % 256 = 0x07 ∧ w.toNat / 65536 ≠ 0) ∨
    (hasRpq = false ∧ 0x10 ≤ w.toNat % 256 ∧ w.toNat % 256 ≤ 0x14)

/-- One single-bit step of the reflected CRC-32 (42_crc.md R157, R160). -/
def bitStep (r : Word) : Word := (r >>> 1) ^^^ (if r.getLsbD 0 then 0xEDB88320 else 0)

/-- The bit-serial `fcs` (42_crc.md R160). -/
def fcsBitSerial (data : List Byte) : Word :=
  data.foldl (fun r b => bitStep^[8] (r ^^^ b.setWidth 32)) 0xFFFFFFFF ^^^ 0xFFFFFFFF

/-- Bit number `k` of a capture's bit stream (20_memory.md R62). -/
def streamBit (data : List Byte) (k : Nat) : Bool := (data.getD (k / 8) 0).getLsbD (k % 8)

/-- The 32 bits before bit number `s` are the pattern in time order, at a dibit boundary (41_align.md R142, R144):
the first data bit is bit number `s`. -/
def PatternBefore (data : List Byte) (s : Nat) : Prop :=
  s % 2 = 0 ∧ 32 ≤ s ∧ s ≤ 8 * data.length ∧
    ∀ k, k < 32 → streamBit data (s - 32 + k) = (0xAAAAAAAB : Word).getLsbD (31 - k)

/-- `delay(data, r)` (95_test_vectors.md section 1). -/
def delay (data : List Byte) (r : Nat) : List Byte :=
  if r = 0 then data
  else
    (List.range (data.length + 1)).map fun k =>
      (data.getD k 0 <<< r) ||| ((if k = 0 then 0 else data.getD (k - 1) 0) >>> (8 - r))

/-- `k` preamble bytes and the start-of-frame delimiter (20_memory.md R64). -/
def preamble (k : Nat) : List Byte := List.replicate k 0x55 ++ [0xD5]

/-- `payload ++ le4(fcs(payload))` (42_crc.md R161). -/
def frameOf (p : List Byte) : List Byte := p ++ leFour (fcs p)

/-- The error code `VALIDATE` reports for a verdict (43_framelen.md R181, R182). -/
def verdictCode : Verdict → ErrCode
  | .ok => .noError
  | .framing => .framing
  | .short => .short
  | .fcs => .fcs

/-- `dataBytes(off)` (10_state.md R44). -/
def dataField (s : State) (off : Nat) : Nat := wordAt s.mem off

/-- `memBytes(off)` (10_state.md R44). -/
def memField (s : State) (off : Nat) : Nat := wordAt s.mem (off + 4)

/-- `hdrOk(off)` (40_queue.md R111). -/
def HeaderSane (s : State) (off : Nat) : Prop :=
  off % 4 = 0 ∧ off + 8 ≤ s.qcap.toNat ∧ memField s off % 4 = 0 ∧ 8 + dataField s off ≤ memField s off ∧
    off + memField s off ≤ s.qcap.toNat

/-- `fits(F, room)` (40_queue.md R113). -/
def FitsIn (s : State) (f room : Nat) : Prop := if s.cfg.qStrictFit = true then f < room else f ≤ room

/-- The footprint `up4(8 + ARG)` (40_queue.md R113). -/
def footprintOf (s : State) : Nat := (8 + s.arg.toNat + 3) / 4 * 4

/-- `wp` (40_queue.md R114). -/
def writePosOf (s : State) : Nat := (s.qtail.toNat + memField s s.qtail.toNat) % s.qcap.toNat

/-- A non-empty queue has no room (40_queue.md R114). -/
def NoRoom (s : State) : Prop :=
  let rp := s.qhead.toNat
  let wp := writePosOf s
  rp = wp ∨
    (rp < wp ∧ ¬FitsIn s (footprintOf s) (s.qcap.toNat - wp) ∧ ¬FitsIn s (footprintOf s) rp) ∨
    (wp < rp ∧ ¬FitsIn s (footprintOf s) (rp - wp))

/-- A non-empty queue puts the new record at `off` and pads the old tail by `pad` (40_queue.md R114). -/
def PlacedAt (s : State) (off pad : Nat) : Prop :=
  let rp := s.qhead.toNat
  let wp := writePosOf s
  (rp < wp ∧ FitsIn s (footprintOf s) (s.qcap.toNat - wp) ∧ off = wp ∧ pad = 0) ∨
    (rp < wp ∧ ¬FitsIn s (footprintOf s) (s.qcap.toNat - wp) ∧ FitsIn s (footprintOf s) rp ∧ off = 0 ∧
      pad = s.qcap.toNat - wp) ∨
    (wp < rp ∧ FitsIn s (footprintOf s) (rp - wp) ∧ off = wp ∧ pad = 0)

/-- `t` is `s` after a successful `QRESERVE` that put the record at `off` and padded the tail by `pad`
(40_queue.md R114): every register, and every byte of `MEM`. -/
def ReservedAt (s t : State) (off pad : Nat) : Prop :=
  t = ended
      { s with
        mem := t.mem
        qhead := if s.qhead = 0xFFFFFFFF then 0 else s.qhead
        qtail := BitVec.ofNat 32 off
        recd := BitVec.ofNat 32 off
        qdata := BitVec.ofNat 32 (off + 8)
        qdlen := s.arg } .noError ∧
    ∀ x, t.mem.byteAt x =
      if off ≤ x ∧ x < off + 4 then byteOf s.arg.toNat (x - off)
      else if off + 4 ≤ x ∧ x < off + 8 then byteOf (footprintOf s) (x - (off + 4))
      else if 0 < pad ∧ s.qtail.toNat + 4 ≤ x ∧ x < s.qtail.toNat + 8 then
        byteOf (memField s s.qtail.toNat + pad) (x - (s.qtail.toNat + 4))
      else s.mem.byteAt x

/-- Commands run one after another, each from the state the one before left. -/
def runAll : List Instr → State → Result
  | [], s => .next s
  | i :: is, s =>
    match exec i s with
    | .next t => runAll is t
    | .fault r => .fault r
    | .refused r => .refused r

/-- The codes a command's own rule can end with (60_exceptions.md R205). -/
def ownCodes : Instr → List ErrCode
  | .nop => [.noError]
  | .locate => [.noError, .framing, .bounds]
  | .genfcs => [.noError, .bounds]
  | .detlen => [.noError, .fcs, .bounds]
  | .validate => [.noError, .framing, .fcs, .short, .bounds]
  | .appendfcs => [.noError, .bounds]
  | .crcinit => [.noError]
  | .crcbyte _ => [.noError]
  | .qinit => [.noError, .badArg]
  | .qreserve => [.noError, .alloc, .prog]
  | .qcommit => [.noError, .prog]
  | .qpeek => [.noError, .prog]
  | .qconsume => [.noError, .prog]

/-- Bytes the pending command may be writing (70_reset_and_hazards.md R238). -/
def MayWrite (s : State) (x : Nat) : Prop :=
  ((decode s.cfg.hasRpq s.pend = .instr .locate ∨ decode s.cfg.hasRpq s.pend = .instr .validate) ∧
      s.base.toNat ≤ x ∧ x < s.base.toNat + s.len.toNat) ∨
    (decode s.cfg.hasRpq s.pend = .instr .appendfcs ∧ s.base.toNat + s.len.toNat ≤ x ∧
      x < s.base.toNat + s.len.toNat + 4) ∨
    (decode s.cfg.hasRpq s.pend = .instr .qreserve ∧
      (x < 8 ∨
        (s.qtail ≠ 0xFFFFFFFF ∧
          ((s.qtail.toNat + 4 ≤ x ∧ x < s.qtail.toNat + 8) ∨ (writePosOf s ≤ x ∧ x < writePosOf s + 8))))) ∨
    (decode s.cfg.hasRpq s.pend = .instr .qcommit ∧ s.recd.toNat ≤ x ∧ x < s.recd.toNat + 8)

end Sys2Proof.Claims

open Sys2Proof Sys2Proof.Machine Sys2Proof.Claims

/-! ## Encoding -/

/-- 30_encoding.md R93, the column `word`: each of the thirteen words decodes to its command. -/
def Obligations.OpcodeMapWords : Prop :=
  decode true 0x00000000 = .instr .nop ∧ decode true 0x00000001 = .instr .locate ∧
    decode true 0x00000002 = .instr .genfcs ∧ decode true 0x00000003 = .instr .detlen ∧
    decode true 0x00000004 = .instr .validate ∧ decode true 0x00000005 = .instr .appendfcs ∧
    decode true 0x00000006 = .instr .crcinit ∧
    (decode true 0x00000007 = .instr (.crcbyte 0x00) ∧ decode true 0x00003107 = .instr (.crcbyte 0x31) ∧
      decode true 0x0000FF07 = .instr (.crcbyte 0xFF)) ∧
    decode true 0x00000010 = .instr .qinit ∧ decode true 0x00000011 = .instr .qreserve ∧
    decode true 0x00000012 = .instr .qcommit ∧ decode true 0x00000013 = .instr .qpeek ∧
    decode true 0x00000014 = .instr .qconsume

/-- Decoding is the exact inverse of encoding: on every build, a word decodes to a command if and only if it is that
command's word and the build has the command (30_encoding.md sections 1 to 3). -/
def Obligations.DecodeInvertsEncode : Prop :=
  ∀ (hasRpq : Bool) (w : Word) (i : Instr),
    decode hasRpq w = .instr i ↔ encode i = w ∧ i.wf hasRpq = true

/-- 30_encoding.md R95: which words are illegal, and what an illegal command does. -/
def Obligations.IllegalWordsEndWithIllcmd : Prop :=
  ∀ (s : State) (rest : List Event), EngineDue s rest → s.fatal = false →
    (IllegalWord s.cfg.hasRpq s.pend → step s = .next (ended (begun s rest) .illcmd)) ∧
      (¬IllegalWord s.cfg.hasRpq s.pend →
        ∃ i, decode s.cfg.hasRpq s.pend = .instr i ∧ step s = exec i (begun s rest))

/-! ## The execution model -/

/-- 30_encoding.md R100, and what a step adds around `exec` here: the event is taken off the order and the bus port
is silent (logs 1, 11). A step runs exactly the decoded command, after the prologue. -/
def Obligations.StepRunsTheDecodedCommand : Prop :=
  ∀ (s : State) (rest : List Event), EngineDue s rest →
    (s.fatal = true → step s = .next (ended (begun s rest) .halted)) ∧
      (s.fatal = false → ∀ c, decode s.cfg.hasRpq s.pend = .illegal c →
        step s = .next (ended (begun s rest) .illcmd)) ∧
      (s.fatal = false → ∀ i, decode s.cfg.hasRpq s.pend = .instr i → step s = exec i (begun s rest))

/-- The model's choice for an engine event while `BUSY = 0` and for an order that is used up while idle (logs 1, 2;
30_encoding.md section 4): the event is taken, and the FCU keeps its state. -/
def Obligations.IdleEngineEventChangesNothing : Prop :=
  ∀ (s : State) (rest : List Event), (s.order = .engine :: rest ∨ (s.order = [] ∧ rest = [])) → s.busy = false →
    step s = .next (begun s rest)

/-- 30_encoding.md R97: an accepted `CMD` write latches the word, sets `BUSY`, clears `DONE`, `OK`, `ERR`, and
changes nothing else. -/
def Obligations.AcceptedCmdWrite : Prop :=
  ∀ (s : State) (w : Word) (rest : List Event), s.cfg.wf → s.busy = false →
    s.order = .bus ⟨s.cfg.regBase + 0x0C, .four, .write w⟩ :: rest →
    step s = .next
      { begun s rest with
        pend := w
        busy := true
        done := false
        ok := false
        err := .noError
        answer := some .completed }

/-- 30_encoding.md section 4, its rule on host accesses while `BUSY = 1`, and that `BUSYERR` is set only then. Two
clauses are the model's: a dropped write to a read-only register, a reserved offset or `CMD` sets `BUSYERR` too
(DEDUCED, log 13), and an unspecified read draws a free value (the counter `free`, log 7). -/
def Obligations.AccessesWhileBusy : Prop :=
  ∀ (s : State) (t : Transaction) (rest : List Event), s.Inv → s.order = .bus t :: rest →
    (s.busy = true → ∀ v, t.op = .write v →
      (InMem s.cfg t.addr ∧ t.addr % t.size.bytes = 0) ∨
        (InBlock s.cfg t.addr ∧ t.size = .four ∧ t.addr % 4 = 0 ∧ t.addr ≠ s.cfg.regBase + 0x08) →
      step s = .next { begun s rest with busyErr := true, answer := some .completed }) ∧
    (s.busy = true → ∀ v, t = ⟨s.cfg.regBase + 0x08, .four, .write v⟩ →
      step s = .next
        { begun s rest with busyErr := s.busyErr && !v.getLsbD 8, answer := some .completed }) ∧
    (s.busy = true → t.op = .read → InBlock s.cfg t.addr → t.size = .four → t.addr % 4 = 0 →
      ¬IsDataOffset (t.addr - s.cfg.regBase) →
      step s = .next
        { begun s rest with answer := some (.data .four (blockValue s (t.addr - s.cfg.regBase))) }) ∧
    (s.busy = true → t.op = .read →
      (InMem s.cfg t.addr ∧ t.addr % t.size.bytes = 0) ∨
        (InBlock s.cfg t.addr ∧ t.size = .four ∧ t.addr % 4 = 0 ∧ IsDataOffset (t.addr - s.cfg.regBase)) →
      ∃ v : Word, v.toNat < 256 ^ t.size.bytes ∧
        step s = .next { begun s rest with answer := some (.data t.size v), free := s.free + 1 }) ∧
    (s.busy = false → s.busyErr = false → ∀ u, step s = .next u → u.busyErr = false)

/-- What follows from R101 for a pending command (20_memory.md section 7, its rule on operand fetch): between the
accepted `CMD` write and the engine step no transaction changes the command, its operands, the queue or `MEM`. -/
def Obligations.PendingCommandKeepsItsOperands : Prop :=
  ∀ (s : State) (t : Transaction) (rest : List Event), s.Inv → s.busy = true → s.order = .bus t :: rest →
    ∃ u, step s = .next u ∧
      u = { begun s rest with busyErr := u.busyErr, answer := u.answer, free := u.free }

/-- The host notation `RUN` (30_encoding.md sections 4 and 6), with any number of polls before the engine step
(log 15): from an idle, not halted FCU it leaves what the command leaves, and the last poll reads its `STATUS`. -/
def Obligations.RunScriptRunsTheCommand : Prop :=
  ∀ (s t : State) (i : Instr) (polls : Nat) (rest : List Event),
    s.cfg.wf → s.busy = false → s.fatal = false → i.wf s.cfg.hasRpq = true →
    s.order = ScriptLine.events s.cfg (.run (encode i) polls) ++ rest →
    exec i
        { s with
          pend := encode i
          busy := true
          done := false
          ok := false
          err := .noError
          order := rdEvent s.cfg .status :: rest
          answer := none } = .next t →
    Host.Core.run Sys2Proof.core (polls + 3) s =
      .next { t with order := rest, answer := some (.data .four (BitVec.ofNat 32 (statusNumber t))) }

/-- The engine step happens (30_encoding.md section 4; the model's order is finite data, log 1): from a busy state
the FCU is idle after at most one step more than there are events left. -/
def Obligations.PendingCommandEnds : Prop :=
  ∀ s : State, s.Inv → s.busy = true →
    ∃ (k : Nat) (t : State), k ≤ s.order.length + 1 ∧ Host.Core.run Sys2Proof.core k s = .next t ∧ t.busy = false

/-! ## The bus -/

/-- 20_memory.md R66: bus errors, busy or not, change no state and return no data. -/
def Obligations.BusErrorsChangeNothing : Prop :=
  ∀ (s : State) (t : Transaction) (rest : List Event), s.cfg.wf → s.order = .bus t :: rest →
    (InBlock s.cfg t.addr ∧ (t.size ≠ .four ∨ t.addr % 4 ≠ 0)) ∨
      (InMem s.cfg t.addr ∧ t.addr % t.size.bytes ≠ 0) →
    step s = .next { begun s rest with answer := some .busError }

/-- 20_memory.md section 3: a transaction outside both ranges has no effect, and is not answered (log 11). -/
def Obligations.ForeignTransactionsChangeNothing : Prop :=
  ∀ (s : State) (t : Transaction) (rest : List Event), s.order = .bus t :: rest →
    ¬InBlock s.cfg t.addr → ¬InMem s.cfg t.addr → step s = .next (begun s rest)

/-- 20_memory.md R67, while idle (`CMD` writes are R97's): the whole register map, reads and writes. -/
def Obligations.IdleRegisterAccesses : Prop :=
  ∀ (s : State) (o : Nat) (rest : List Event), s.cfg.wf → s.busy = false → o < 256 → o % 4 = 0 →
    (s.order = .bus ⟨s.cfg.regBase + o, .four, .read⟩ :: rest →
      step s = .next { begun s rest with answer := some (.data .four (blockValue s o)) }) ∧
    (∀ v, o ≠ 0x0C → s.order = .bus ⟨s.cfg.regBase + o, .four, .write v⟩ :: rest →
      step s = .next { blockStored (begun s rest) o v with answer := some .completed })

/-- 20_memory.md section 3, its rule on `MEM` accesses, while idle: little-endian, and every other byte as before.
The model's choices in it: a read's answer is zero above its `n` bytes (log 11), and a write takes the low `n` bytes of
a word (log 12). -/
def Obligations.IdleMemAccesses : Prop :=
  ∀ (s : State) (a : Nat) (n : Size) (rest : List Event), s.Inv → s.busy = false → a < s.cfg.memSize →
    a % n.bytes = 0 →
    (s.order = .bus ⟨s.cfg.memBase + a, n, .read⟩ :: rest →
      step s = .next
        { begun s rest with
          answer := some (.data n (BitVec.ofNat 32 (wordAt s.mem a % 256 ^ n.bytes))) }) ∧
    (∀ v, s.order = .bus ⟨s.cfg.memBase + a, n, .write v⟩ :: rest →
      ∃ t, step s = .next t ∧ t = { begun s rest with mem := t.mem, answer := some .completed } ∧
        Stored s.mem t.mem a ((leFour v).take n.bytes))

/-! ## Reset and the whole machine -/

/-- 10_state.md R51: the values after a reset transition from any state. -/
def Obligations.ResetValues : Prop :=
  ∀ (s : State) (rest : List Event), s.order = .reset :: rest →
    ∃ t, step s = .next t ∧ t.alignEn = true ∧ t.irqEn = false ∧
      (t.busy = false ∧ t.done = false ∧ t.ok = false ∧ t.fatal = false ∧ t.busyErr = false ∧ t.err = .noError) ∧
      (t.base = 0 ∧ t.len = 0 ∧ t.maxLen = 0xFFFFFFFF ∧ t.crc = 0 ∧ t.midx = 0 ∧ t.moff = 0 ∧ t.drops = 0) ∧
      (t.arg = 0 ∧ t.recd = 0xFFFFFFFF ∧ t.qdata = 0xFFFFFFFF ∧ t.qdlen = 0 ∧ t.qhead = 0xFFFFFFFF ∧
        t.qtail = 0xFFFFFFFF ∧ t.qcap = 0) ∧
      t.irq = false ∧ t.cfg = s.cfg ∧ t.order = rest ∧ (s.busy = false → t.mem = s.mem)

/-- 70_reset_and_hazards.md section 1, its rule on a reset while `BUSY = 1` (the region is read literally, log 8):
the command does not complete, and every byte it may not be writing keeps its value. -/
def Obligations.ResetWhileBusyKeepsOtherBytes : Prop :=
  ∀ (s : State) (rest : List Event), s.Inv → s.busy = true → s.order = .reset :: rest →
    ∃ t, step s = .next t ∧ t.busy = false ∧ t.done = false ∧
      ∀ x, ¬MayWrite s x → t.mem.byteAt x = s.mem.byteAt x

/-- The invariant holds right after power-on, on every legal build and for every content of `MEM`
(70_reset_and_hazards.md section 1; the one build and the empty `MEM` of `State.reset` are logs 3, 4, 5). -/
def Obligations.ResetMeetsInv : Prop :=
  State.reset.Inv ∧
    ∀ (cfg : Config) (mem : Memory) (order : List Event) (free : Nat), cfg.wf → mem.wf = true →
      mem.within cfg.memSize = true → (State.resetOf cfg mem order free).Inv

/-- From every state that meets the invariant the machine steps, whatever the host does and whatever `MEM` holds,
and the invariant holds again: no command on any input stops it (93_implementation_defined.md, the end of its list
of unspecified points; 10_state.md section 3). -/
def Obligations.EveryStepKeepsInv : Prop :=
  ∀ s : State, s.Inv → ∃ t, step s = .next t ∧ t.Inv

/-- 60_exceptions.md R216 and 10_state.md R52: the interrupt is the level `IRQ_EN AND DONE`; every completion raises
it when enabled, and only an acknowledge, an accepted `CMD` write, clearing `IRQ_EN`, or reset lowers it. -/
def Obligations.InterruptLevel : Prop :=
  (∀ s : State, s.irq = true ↔ s.irqEn = true ∧ s.done = true) ∧
    (∀ (s t : State) (rest : List Event), EngineDue s rest → step s = .next t → t.irq = s.irqEn) ∧
    ∀ s t : State, s.cfg.wf → step s = .next t → s.irq = true → t.irq = false →
      (∃ rest, s.order = .reset :: rest) ∨
        ∃ v rest,
          (s.order = .bus ⟨s.cfg.regBase + 0x08, .four, .write v⟩ :: rest ∧ v.getLsbD 1 = true) ∨
            (s.order = .bus ⟨s.cfg.regBase + 0x0C, .four, .write v⟩ :: rest ∧ s.busy = false) ∨
            (s.order = .bus ⟨s.cfg.regBase + 0x04, .four, .write v⟩ :: rest ∧ s.busy = false ∧
              v.getLsbD 1 = false)

/-- 20_memory.md section 8, its rule on persistence: a byte of `MEM` changes only by an accepted host write that
covers it, by one of the five commands that write `MEM`, or by a reset of a busy unit. -/
def Obligations.MemBytesPersist : Prop :=
  ∀ (s t : State) (x : Nat), s.Inv → step s = .next t → t.mem.byteAt x ≠ s.mem.byteAt x →
    (∃ tr v rest, s.order = .bus tr :: rest ∧ s.busy = false ∧ tr.op = .write v ∧ InMem s.cfg tr.addr ∧
        tr.addr ≤ s.cfg.memBase + x ∧ s.cfg.memBase + x < tr.addr + tr.size.bytes) ∨
      (∃ rest i, EngineDue s rest ∧ s.fatal = false ∧ decode s.cfg.hasRpq s.pend = .instr i ∧
        i ∈ [Instr.locate, .validate, .appendfcs, .qreserve, .qcommit]) ∨
      ∃ rest, s.order = .reset :: rest ∧ s.busy = true

/-- 60_exceptions.md R211: the fatal error. No event but reset clears `FATAL`; while it is set an engine step ends
with `ERR_HALTED` and changes nothing else; the host's accesses work as without it; and the command that raises
`ERR_PROG` changes nothing but the status flags. -/
def Obligations.FatalErrorHaltsUntilReset : Prop :=
  (∀ s t : State, s.fatal = true → step s = .next t → t.fatal = false → ∃ rest, s.order = .reset :: rest) ∧
    (∀ (s : State) (rest : List Event), s.fatal = true → EngineDue s rest →
      step s = .next (ended (begun s rest) .halted)) ∧
    (∀ (s : State) (tr : Transaction) (rest : List Event) (b : Bool), s.order = .bus tr :: rest →
      ∃ t u, step s = .next t ∧ step { s with fatal := b } = .next u ∧
        u = { t with fatal := b, answer := u.answer }) ∧
    ∀ (i : Instr) (s t : State), exec i s = .next t → t.err = .prog → t = ended s .prog ∧ t.fatal = true

/-- 60_exceptions.md R208: what a failing command leaves, the prologue's codes first. -/
def Obligations.FailingCommandsLeaveTheRest : Prop :=
  (∀ (s t : State) (rest : List Event), EngineDue s rest → step s = .next t → t.err ∈ [ErrCode.halted, .illcmd] →
    t = ended (begun s rest) t.err) ∧
  ∀ (i : Instr) (s t : State), exec i s = .next t →
    (t.err ∈ [ErrCode.bounds, .badArg, .alloc, .prog] → t = ended s t.err) ∧
      (i ≠ .validate → t.err ≠ .noError → t = ended s t.err) ∧
      (i = .validate → t.err = .framing ∨ (t.err ∈ [ErrCode.short, .fcs] ∧ s.alignEn = false) →
        t = ended { s with drops := s.drops + 1 } t.err) ∧
      (i = .validate → t.err ∈ [ErrCode.short, .fcs] → s.alignEn = true → s.Inv →
        ∃ out n i j, locateFrame (windowBytes s) = .ok out n i j ∧ Stored s.mem t.mem s.base.toNat out ∧
          t = ended
            { s with
              drops := s.drops + 1
              mem := t.mem
              len := BitVec.ofNat 32 n
              midx := BitVec.ofNat 32 i
              moff := BitVec.ofNat 32 j } t.err)

/-- 60_exceptions.md section 1, the column `raised by` of the table of codes, and what the prologue raises. -/
def Obligations.ErrorCodesRaised : Prop :=
  (∀ (i : Instr) (s t : State), exec i s = .next t → t.err ∈ ownCodes i) ∧
    ∀ (s t : State) (rest : List Event), EngineDue s rest → step s = .next t →
      (t.err = .halted ↔ s.fatal = true) ∧
        (t.err = .illcmd ↔ s.fatal = false ∧ IllegalWord s.cfg.hasRpq s.pend) ∧
        t.ok = decide (t.err = .noError) ∧ t.done = true ∧ t.busy = false

/-- 30_encoding.md R105, column by column: a command without a `w` in a column leaves it alone, and so does every
failing command, but for `VALIDATE`, whose failures write `LEN`, `MIDX`, `MOFF`, `DROPS` and `MEM` (R183). -/
def Obligations.CommandsLeaveOtherRegisters : Prop :=
  ∀ (i : Instr) (s t : State), exec i s = .next t →
    (t.cfg = s.cfg ∧ t.alignEn = s.alignEn ∧ t.irqEn = s.irqEn ∧ t.busyErr = s.busyErr ∧ t.pend = s.pend ∧
      t.base = s.base ∧ t.maxLen = s.maxLen ∧ t.arg = s.arg ∧ t.order = s.order ∧ t.answer = s.answer ∧
      t.free = s.free) ∧
    (i ∉ [Instr.locate, .detlen, .validate, .appendfcs] → t.len = s.len) ∧
    (i ∉ [Instr.genfcs, .detlen, .validate, .appendfcs, .crcinit] → (∀ b, i ≠ .crcbyte b) → t.crc = s.crc) ∧
    (i ∉ [Instr.locate, .validate] → t.midx = s.midx ∧ t.moff = s.moff) ∧
    (i ≠ .validate ∨ t.err = .noError → t.drops = s.drops) ∧
    (i ∉ [Instr.qreserve, .qpeek] → t.recd = s.recd) ∧
    (i ∉ [Instr.qreserve, .qcommit, .qpeek] → t.qdata = s.qdata ∧ t.qdlen = s.qdlen) ∧
    (i ∉ [Instr.qinit, .qreserve, .qconsume] → t.qhead = s.qhead ∧ t.qtail = s.qtail) ∧
    (i ≠ .qinit → t.qcap = s.qcap) ∧
    (i ∉ [Instr.locate, .validate, .appendfcs, .qreserve, .qcommit] → t.mem = s.mem) ∧
    (i ≠ .validate → t.err ≠ .noError →
      t.len = s.len ∧ t.midx = s.midx ∧ t.moff = s.moff ∧ t.mem = s.mem) ∧
    (t.err ≠ .noError →
      t.crc = s.crc ∧ t.recd = s.recd ∧ t.qdata = s.qdata ∧ t.qdlen = s.qdlen ∧ t.qhead = s.qhead ∧
        t.qtail = s.qtail ∧ t.qcap = s.qcap)

/-- 10_state.md R42: a build without the queue unit. Its result and state registers keep their reset values for
ever, the five queue words are illegal, and `ARG` and `REC`, which stay writable, are used by no command. -/
def Obligations.BuildWithoutQueueUnit : Prop :=
  ∀ s : State, s.Inv → s.cfg.hasRpq = false →
    (∀ t, step s = .next t →
      t.qdata = 0xFFFFFFFF ∧ t.qdlen = 0 ∧ t.qhead = 0xFFFFFFFF ∧ t.qtail = 0xFFFFFFFF ∧ t.qcap = 0) ∧
    (∀ (rest : List Event) (i : Instr), EngineDue s rest → s.fatal = false → i.isQueue = true →
      s.pend = encode i → step s = .next (ended (begun s rest) .illcmd)) ∧
    (∀ (rest : List Event) (a r : Word), EngineDue s rest →
      ∃ t, step s = .next t ∧ step { s with arg := a, recd := r } = .next { t with arg := a, recd := r })

/-- 43_framelen.md R184: the drop counter, over every engine step. -/
def Obligations.DropsCountsFailedValidates : Prop :=
  ∀ (s t : State) (rest : List Event), EngineDue s rest → step s = .next t →
    t.drops =
      if decode s.cfg.hasRpq s.pend = .instr .validate ∧ t.err ∈ [ErrCode.framing, .short, .fcs] then s.drops + 1
      else s.drops

/-! ## NOP and the CRC commands -/

/-- 44_system.md R195. -/
def Obligations.NopCompletes : Prop :=
  ∀ s : State, exec .nop s =
    .next { s with busy := false, done := true, ok := true, err := .noError }

/-- 42_crc.md R163 and R164: `CRCINIT` seeds the rolling value, `CRCBYTE` advances it by one byte. -/
def Obligations.RollingCrcCommands : Prop :=
  ∀ s : State,
    exec .crcinit s =
        .next { s with crc := 0, busy := false, done := true, ok := true, err := .noError } ∧
      ∀ b : Byte, exec (.crcbyte b) s =
        .next
          { s with
            crc := bitStep^[8] ((s.crc ^^^ 0xFFFFFFFF) ^^^ b.setWidth 32) ^^^ 0xFFFFFFFF
            busy := false
            done := true
            ok := true
            err := .noError }

/-- 42_crc.md R165. -/
def Obligations.GenfcsComputesTheWindowFcs : Prop :=
  ∀ s : State,
    (¬Fits s 0 → exec .genfcs s = .next (ended s .bounds)) ∧
      (Fits s 0 → exec .genfcs s = .next (ended { s with crc := fcsBitSerial (windowBytes s) } .noError))

/-- 42_crc.md R166. -/
def Obligations.AppendfcsAppendsTheFcs : Prop :=
  ∀ s : State, s.Inv →
    (¬Fits s 4 → exec .appendfcs s = .next (ended s .bounds)) ∧
      (Fits s 4 → ∃ t, exec .appendfcs s = .next t ∧
        t = ended
          { s with
            mem := t.mem
            crc := fcs (windowBytes s)
            len := BitVec.ofNat 32 (s.len.toNat + 4) } .noError ∧
        t.len.toNat = s.len.toNat + 4 ∧
        Stored s.mem t.mem (s.base.toNat + s.len.toNat) (leFour (fcs (windowBytes s))))

/-- 42_crc.md section 2: the streaming commands compute the same function as the one-shot command, from the seed
and from the value a `GENFCS` left. -/
def Obligations.StreamingCrcEqualsOneShot : Prop :=
  ∀ (s : State) (bs : List Byte),
    runAll (.crcinit :: bs.map .crcbyte) s = .next (ended { s with crc := fcs bs } .noError) ∧
      (Fits s 0 →
        runAll (.genfcs :: bs.map .crcbyte) s =
          .next (ended { s with crc := fcs (windowBytes s ++ bs) } .noError))

/-- 42_crc.md R160: the nibble-table function is the bit-serial CRC-32; its value on the empty sequence, and
continuation over a concatenation. -/
def Obligations.NibbleFcsIsBitSerialCrc : Prop :=
  fcs [] = 0 ∧ (∀ x y : List Byte, fcs (x ++ y) = y.foldl crcByte (fcs x)) ∧
    ∀ data : List Byte, fcs data = fcsBitSerial data

/-- 42_crc.md section 1, its law (b): the residue of a frame is a constant. -/
def Obligations.FrameResidueIsConstant : Prop :=
  ∀ p : List Byte, fcs (frameOf p) = 0x2144DF1C

/-! ## Alignment -/

/-- 41_align.md R143, R145, R147, R148: `locateFrame` finds the first place at a dibit boundary where the pattern
ends, and re-emits the complete bytes that follow it, bit for bit; without one it is a framing error. -/
def Obligations.LocateFindsTheFirstPattern : Prop :=
  ∀ data : List Byte,
    (locateFrame data = .framingError ↔ ∀ s, ¬PatternBefore data s) ∧
      ∀ (out : List Byte) (n i j : Nat), locateFrame data = .ok out n i j →
        j < 8 ∧ PatternBefore data (8 * i + j) ∧ (∀ s, s < 8 * i + j → ¬PatternBefore data s) ∧
          n = (8 * data.length - (8 * i + j)) / 8 ∧ out.length = n ∧
          ∀ t b, t < n → b < 8 → (out.getD t 0).getLsbD b = streamBit data (8 * (i + t) + j + b)

/-- 41_align.md section 2, its first law: bounds on the results of `locateFrame`. -/
def Obligations.LocateResultBounds : Prop :=
  ∀ (data out : List Byte) (n i j : Nat), locateFrame data = .ok out n i j →
    4 ≤ i ∧ j ∈ [0, 2, 4, 6] ∧ n + 4 ≤ data.length ∧ (8 * i + j = 8 * data.length → out = [] ∧ n = 0)

/-- 41_align.md section 2, its law on delayed captures: an even delay is undone exactly. -/
def Obligations.EvenDelaysAreUndone : Prop :=
  ∀ (frame : List Byte) (k r : Nat), 3 ≤ k → r ∈ [0, 2, 4, 6] →
    locateFrame (delay (preamble k ++ frame) r) = .ok frame frame.length (k + 1) r

/-- 41_align.md R150. -/
def Obligations.LocateRealignsInPlace : Prop :=
  ∀ s : State, s.Inv →
    (¬Fits s 0 → exec .locate s = .next (ended s .bounds)) ∧
      (Fits s 0 → locateFrame (windowBytes s) = .framingError → exec .locate s = .next (ended s .framing)) ∧
      ∀ (out : List Byte) (n i j : Nat), Fits s 0 → locateFrame (windowBytes s) = .ok out n i j →
        ∃ t, exec .locate s = .next t ∧
          t = ended
            { s with
              mem := t.mem
              len := BitVec.ofNat 32 n
              midx := BitVec.ofNat 32 i
              moff := BitVec.ofNat 32 j } .noError ∧
          (t.len.toNat = n ∧ t.midx.toNat = i ∧ t.moff.toNat = j) ∧ out.length = n ∧
          Stored s.mem t.mem s.base.toNat out

/-! ## The boundary detector and VALIDATE -/

/-- 43_framelen.md R176 and R178: the detector returns the first candidate end, from 4 to `maxLength` inclusive, at
which the four bytes match. -/
def Obligations.DetectorReturnsTheFirstMatch : Prop :=
  ∀ (data : List Byte) (m : Nat), m ≤ data.length →
    (∀ l c, determineLength data m = .ok l c ↔
      l + 4 ≤ m ∧ c = fcs (data.take l) ∧ SelfMatches data l ∧ ∀ k, k < l → ¬SelfMatches data k) ∧
      (determineLength data m = .fcsMismatch ↔ ∀ k, k + 4 ≤ m → ¬SelfMatches data k)

/-- 43_framelen.md R180. -/
def Obligations.DetlenSetsTheLength : Prop :=
  ∀ s : State,
    (¬Fits s 0 → exec .detlen s = .next (ended s .bounds)) ∧
      (Fits s 0 → (∀ k, k + 4 ≤ min s.len.toNat s.maxLen.toNat → ¬SelfMatches (windowBytes s) k) →
        exec .detlen s = .next (ended s .fcs)) ∧
      ∀ l, Fits s 0 → l + 4 ≤ min s.len.toNat s.maxLen.toNat → SelfMatches (windowBytes s) l →
        (∀ k, k < l → ¬SelfMatches (windowBytes s) k) →
        exec .detlen s =
          .next (ended
            { s with len := BitVec.ofNat 32 l, crc := fcs ((windowBytes s).take l) } .noError)

/-- 43_framelen.md R182 and R183: every outcome of `VALIDATE` and the state it leaves. -/
def Obligations.ValidateOutcomes : Prop :=
  ∀ s : State, s.Inv →
    (¬Fits s 0 → exec .validate s = .next (ended s .bounds)) ∧
    (Fits s 0 → s.alignEn = true → locateFrame (windowBytes s) = .framingError →
      exec .validate s = .next (ended { s with drops := s.drops + 1 } .framing)) ∧
    (∀ (out : List Byte) (n i j : Nat), Fits s 0 → s.alignEn = true →
      locateFrame (windowBytes s) = .ok out n i j →
      ∃ t, exec .validate s = .next t ∧ Stored s.mem t.mem s.base.toNat out ∧
        (n < 4 →
          t = ended
            { s with
              drops := s.drops + 1
              mem := t.mem
              len := BitVec.ofNat 32 n
              midx := BitVec.ofNat 32 i
              moff := BitVec.ofNat 32 j } .short) ∧
        (4 ≤ n → determineLength out (min n s.maxLen.toNat) = .fcsMismatch →
          t = ended
            { s with
              drops := s.drops + 1
              mem := t.mem
              len := BitVec.ofNat 32 n
              midx := BitVec.ofNat 32 i
              moff := BitVec.ofNat 32 j } .fcs) ∧
        (∀ l c, 4 ≤ n → determineLength out (min n s.maxLen.toNat) = .ok l c →
          t = ended
            { s with
              mem := t.mem
              len := BitVec.ofNat 32 l
              crc := c
              midx := BitVec.ofNat 32 i
              moff := BitVec.ofNat 32 j } .noError)) ∧
    (Fits s 0 → s.alignEn = false →
      (s.len.toNat < 4 → exec .validate s = .next (ended { s with drops := s.drops + 1 } .short)) ∧
      (4 ≤ s.len.toNat →
        determineLength (windowBytes s) (min s.len.toNat s.maxLen.toNat) = .fcsMismatch →
        exec .validate s = .next (ended { s with drops := s.drops + 1 } .fcs)) ∧
      (∀ l c, 4 ≤ s.len.toNat →
        determineLength (windowBytes s) (min s.len.toNat s.maxLen.toNat) = .ok l c →
        exec .validate s = .next (ended { s with len := BitVec.ofNat 32 l, crc := c } .noError)))

/-- 43_framelen.md section 2: the command `VALIDATE` computes the pure function `validate` on its window: its verdict
in `STATUS`, its length in `LEN`, its bytes in `MEM`. -/
def Obligations.ValidateRefinesThePureFunction : Prop :=
  ∀ s : State, s.Inv → Fits s 0 →
    ∃ t, exec .validate s = .next t ∧
      t.err = verdictCode (validate (windowBytes s) s.alignEn s.maxLen.toNat).1 ∧
      t.ok = decide ((validate (windowBytes s) s.alignEn s.maxLen.toNat).1 = .ok) ∧
      t.len.toNat = (validate (windowBytes s) s.alignEn s.maxLen.toNat).2.2 ∧
      ∀ k, k < (validate (windowBytes s) s.alignEn s.maxLen.toNat).2.1.length →
        t.mem.byteAt (s.base.toNat + k) =
          (validate (windowBytes s) s.alignEn s.maxLen.toNat).2.1.getD k 0

/-- 43_framelen.md section 3, the round trip: a frame behind its preamble, delayed by an even number of bits and
followed by anything, is recovered exactly, unless a shorter prefix matches itself. -/
def Obligations.ValidateRecoversTheFrame : Prop :=
  ∀ (p trail : List Byte) (r cap : Nat), r ∈ [0, 2, 4, 6] → p.length + 4 ≤ cap →
    (∀ k, k < p.length → ¬SelfMatches (frameOf p) k) →
    (validate (delay (preamble 7 ++ frameOf p ++ trail) r) true cap).1 = .ok ∧
      (validate (delay (preamble 7 ++ frameOf p ++ trail) r) true cap).2.2 = p.length ∧
      (validate (delay (preamble 7 ++ frameOf p ++ trail) r) true cap).2.1.take p.length = p

/-- 42_crc.md section 2: after `APPENDFCS` the window is a frame, and `DETLEN` on it returns the old `LEN`, unless a
shorter prefix matches itself. -/
def Obligations.DetlenUndoesAppendfcs : Prop :=
  ∀ s : State, s.Inv → Fits s 4 → s.len.toNat + 4 ≤ s.maxLen.toNat →
    (∀ k, k < s.len.toNat → ¬SelfMatches (frameOf (windowBytes s)) k) →
    ∃ t u, exec .appendfcs s = .next t ∧ windowBytes t = frameOf (windowBytes s) ∧ exec .detlen t = .next u ∧
      u.err = .noError ∧ u.len = s.len ∧ u.crc = t.crc ∧ u.mem = t.mem

/-! ## The queue -/

/-- 40_queue.md R112. -/
def Obligations.QinitEmptiesTheQueue : Prop :=
  ∀ s : State,
    (s.arg.toNat % 4 ≠ 0 ∨ s.cfg.memSize < s.arg.toNat → exec .qinit s = .next (ended s .badArg)) ∧
      (s.arg.toNat % 4 = 0 → s.arg.toNat ≤ s.cfg.memSize →
        exec .qinit s =
          .next (ended { s with qcap := s.arg, qhead := 0xFFFFFFFF, qtail := 0xFFFFFFFF } .noError))

/-- 40_queue.md R113 and R114: every outcome of `QRESERVE`, every register and every byte. -/
def Obligations.QreserveOutcomes : Prop :=
  ∀ s : State, s.Inv →
    (s.qhead = 0xFFFFFFFF → s.qcap.toNat < footprintOf s → exec .qreserve s = .next (ended s .alloc)) ∧
    (s.qhead = 0xFFFFFFFF → footprintOf s ≤ s.qcap.toNat →
      ∃ t, exec .qreserve s = .next t ∧ ReservedAt s t 0 0) ∧
    (s.qhead ≠ 0xFFFFFFFF → ¬HeaderSane s s.qtail.toNat → exec .qreserve s = .next (ended s .prog)) ∧
    (s.qhead ≠ 0xFFFFFFFF → HeaderSane s s.qtail.toNat → NoRoom s → exec .qreserve s = .next (ended s .alloc)) ∧
    ∀ off pad, s.qhead ≠ 0xFFFFFFFF → HeaderSane s s.qtail.toNat → PlacedAt s off pad →
      ∃ t, exec .qreserve s = .next t ∧ ReservedAt s t off pad

/-- 40_queue.md section 3, its rule on the arena end: a successful `QRESERVE` never produces a record that crosses
it, and a failed one changes nothing but the status flags. -/
def Obligations.QreserveNeverSplitsARecord : Prop :=
  ∀ s t : State, s.Inv → exec .qreserve s = .next t →
    (t.err = .noError →
      dataField t t.qtail.toNat = s.arg.toNat ∧ memField t t.qtail.toNat = footprintOf s ∧
        t.qtail.toNat % 4 = 0 ∧ t.qtail.toNat + memField t t.qtail.toNat ≤ t.qcap.toNat) ∧
      (t.err ≠ .noError → t = ended s t.err)

/-- 40_queue.md R117: every outcome of `QCOMMIT`, every register and every byte. -/
def Obligations.QcommitOutcomes : Prop :=
  ∀ s : State, s.Inv →
    (s.qtail = 0xFFFFFFFF ∨ s.recd ≠ s.qtail → exec .qcommit s = .next (ended s .prog)) ∧
    (s.qtail ≠ 0xFFFFFFFF → s.recd = s.qtail → ¬HeaderSane s s.recd.toNat →
      exec .qcommit s = .next (ended s .prog)) ∧
    (s.qtail ≠ 0xFFFFFFFF → s.recd = s.qtail → HeaderSane s s.recd.toNat →
      dataField s s.recd.toNat < s.arg.toNat → exec .qcommit s = .next (ended s .prog)) ∧
    (s.qtail ≠ 0xFFFFFFFF → s.recd = s.qtail → HeaderSane s s.recd.toNat →
      s.arg.toNat ≤ dataField s s.recd.toNat →
      ∃ t, exec .qcommit s = .next t ∧
        t = ended
          { s with
            mem := t.mem
            qdata := BitVec.ofNat 32 (s.recd.toNat + 8)
            qdlen := s.arg } .noError ∧
        ∀ x, t.mem.byteAt x =
          if s.recd.toNat ≤ x ∧ x < s.recd.toNat + 4 then byteOf s.arg.toNat (x - s.recd.toNat)
          else if s.recd.toNat + 4 ≤ x ∧ x < s.recd.toNat + 8 then
            byteOf
              (memField s s.recd.toNat - (dataField s s.recd.toNat - s.arg.toNat) / 4 * 4)
              (x - (s.recd.toNat + 4))
          else s.mem.byteAt x)

/-- 40_queue.md section 4, its rule on the footprint: a successful `QCOMMIT` never grows the record, keeps its
footprint a multiple of 4, and keeps header and data inside it. -/
def Obligations.QcommitNeverGrowsTheRecord : Prop :=
  ∀ s t : State, s.Inv → exec .qcommit s = .next t → t.err = .noError →
    dataField t s.recd.toNat = s.arg.toNat ∧ memField t s.recd.toNat ≤ memField s s.recd.toNat ∧
      memField t s.recd.toNat % 4 = 0 ∧ 8 + s.arg.toNat ≤ memField t s.recd.toNat

/-- 40_queue.md R119. -/
def Obligations.QpeekReturnsTheHead : Prop :=
  ∀ s : State, s.Inv →
    (s.qhead = 0xFFFFFFFF →
      exec .qpeek s =
        .next (ended { s with recd := 0xFFFFFFFF, qdata := 0xFFFFFFFF, qdlen := 0 } .noError)) ∧
    (s.qhead ≠ 0xFFFFFFFF → ¬HeaderSane s s.qhead.toNat → exec .qpeek s = .next (ended s .prog)) ∧
    (s.qhead ≠ 0xFFFFFFFF → HeaderSane s s.qhead.toNat →
      exec .qpeek s =
        .next (ended
          { s with
            recd := s.qhead
            qdata := BitVec.ofNat 32 (s.qhead.toNat + 8)
            qdlen := BitVec.ofNat 32 (dataField s s.qhead.toNat) } .noError))

/-- 40_queue.md R120. -/
def Obligations.QconsumeRemovesTheHead : Prop :=
  ∀ s : State, s.Inv →
    (s.qhead = 0xFFFFFFFF → exec .qconsume s = .next (ended s .noError)) ∧
    (s.qhead ≠ 0xFFFFFFFF → s.qhead = s.qtail →
      exec .qconsume s = .next (ended { s with qhead := 0xFFFFFFFF, qtail := 0xFFFFFFFF } .noError)) ∧
    (s.qhead ≠ 0xFFFFFFFF → s.qhead ≠ s.qtail → ¬HeaderSane s s.qhead.toNat →
      exec .qconsume s = .next (ended s .prog)) ∧
    (s.qhead ≠ 0xFFFFFFFF → s.qhead ≠ s.qtail → HeaderSane s s.qhead.toNat →
      exec .qconsume s =
        .next (ended
          { s with
            qhead := BitVec.ofNat 32
              ((s.qhead.toNat + memField s s.qhead.toNat) % s.qcap.toNat) } .noError))

/-- 40_queue.md section 7: from every state of the invariant whose queue meets the invariants of 10_state.md section 3
with the live records `recs`, every queue command answers a next state that meets them again (and, on a build that has
the command, the whole invariant), and the live records are those of a first-in first-out queue: a reservation appends
one, a consume takes off the oldest, nothing else changes them, and no record but the tail changes its header. -/
def Obligations.QueueIsFirstInFirstOut : Prop :=
  ∀ (s : State) (recs : List Nat), s.Inv → s.QueueInv recs → ∀ i : Instr, i.isQueue = true →
    ∃ t recs', exec i s = .next t ∧ t.QueueInv recs' ∧ t.memInv ∧ (i.wf s.cfg.hasRpq = true → t.Inv) ∧
      (i = .qinit → t.err = .noError → recs' = []) ∧
      (i = .qreserve → t.err = .noError → recs' = recs ++ [t.recd.toNat]) ∧
      (i = .qconsume → recs' = recs.tail) ∧
      (i = .qcommit ∨ i = .qpeek → recs' = recs) ∧
      (t.err ≠ .noError → recs' = recs) ∧
      ∀ o, o ∈ recs → o ≠ s.qtail.toNat → dataField t o = dataField s o ∧ memField t o = memField s o
end

