-- ==== Sys2Proof/Laws/Encode.lean ====
section
/-! SUPPORT. The fields of a command word and the words of the encoder as numbers (30_encoding.md R90, R91). -/

namespace Sys2Proof

theorem opField_toNat (w : Word) : (opField w).toNat = w.toNat % 256 := by
  simp [opField, BitVec.extractLsb'_toNat]

theorem immField_toNat (w : Word) : (immField w).toNat = w.toNat / 256 % 256 := by
  simp [immField, BitVec.extractLsb'_toNat, Nat.shiftRight_eq_div_pow]

theorem zeroFieldZ_eq_zero (w : Word) : zeroFieldZ w = 0 ↔ w.toNat / 256 = 0 := by
  rw [← BitVec.toNat_inj]
  simp [zeroFieldZ, BitVec.extractLsb'_toNat, Nat.shiftRight_eq_div_pow]
  omega

theorem zeroFieldI_eq_zero (w : Word) : zeroFieldI w = 0 ↔ w.toNat / 65536 = 0 := by
  rw [← BitVec.toNat_inj]
  simp [zeroFieldI, BitVec.extractLsb'_toNat, Nat.shiftRight_eq_div_pow]
  omega

theorem encodeZ_toNat (op : BitVec 8) : (encodeZ op).toNat = op.toNat := by
  have h : (encodeZ op).toNat = ((0 : BitVec 24) ++ op).toNat := rfl
  rw [h, BitVec.toNat_append]
  simp

theorem encodeI_toNat (imm8 : Byte) (op : BitVec 8) : (encodeI imm8 op).toNat = imm8.toNat * 256 + op.toNat := by
  have h : (encodeI imm8 op).toNat = ((0 : BitVec 16) ++ imm8 ++ op).toNat := rfl
  rw [h, BitVec.toNat_append, BitVec.toNat_append, ← Nat.shiftLeft_add_eq_or_of_lt op.isLt]
  simp [Nat.shiftLeft_eq]

end Sys2Proof
end

