-- ==== Sys2Proof/Laws/Memory.lean ====
section
/-! SUPPORT. The laws of `MEM`: a store is read back, every other byte is left alone, the canonical form and the
bound `MEM_SIZE` are kept by every operation, and equal contents in canonical form are equal lists. -/

namespace Sys2Proof.Machine

/-! ## One byte -/

theorem Memory.wfFrom_cons {lo b : Nat} {v : Byte} {m : Memory} :
    Memory.wfFrom lo ((b, v) :: m) = true ↔ lo ≤ b ∧ v ≠ 0 ∧ Memory.wfFrom (b + 1) m = true := by
  simp [Memory.wfFrom, and_assoc]

theorem Memory.wfFrom_anti {lo lo' : Nat} {m : Memory} (h : Memory.wfFrom lo m = true) (hl : lo' ≤ lo) :
    Memory.wfFrom lo' m = true := by
  cases m with
  | nil => rfl
  | cons c m =>
    obtain ⟨b, v⟩ := c
    rw [Memory.wfFrom_cons] at h ⊢
    exact ⟨hl.trans h.1, h.2⟩

theorem Memory.byteAt_below {lo a : Nat} {m : Memory} (h : Memory.wfFrom lo m = true) (ha : a < lo) :
    m.byteAt a = 0 := by
  induction m generalizing lo with
  | nil => rfl
  | cons c m ih =>
    obtain ⟨b, v⟩ := c
    rw [Memory.wfFrom_cons] at h
    have : b ≠ a := by omega
    simpa [Memory.byteAt, this] using ih h.2.2 (by omega)

theorem Memory.wfFrom_put {lo a : Nat} {m : Memory} (v : Byte) (h : Memory.wfFrom lo m = true) (ha : lo ≤ a) :
    Memory.wfFrom lo (m.put a v) = true := by
  induction m generalizing lo with
  | nil =>
    unfold Memory.put
    split
    · rfl
    · rename_i hv
      exact Memory.wfFrom_cons.2 ⟨ha, hv, rfl⟩
  | cons c m ih =>
    obtain ⟨b, w⟩ := c
    have h0 := h
    rw [Memory.wfFrom_cons] at h
    obtain ⟨hb, hw, hm⟩ := h
    unfold Memory.put
    split
    · split
      · exact h0
      · rename_i hab hv
        exact Memory.wfFrom_cons.2 ⟨ha, hv, Memory.wfFrom_cons.2 ⟨by omega, hw, hm⟩⟩
    · split
      · split
        · exact Memory.wfFrom_anti hm (by omega)
        · rename_i hab hv
          exact Memory.wfFrom_cons.2 ⟨ha, hv, Memory.wfFrom_anti hm (by omega)⟩
      · exact Memory.wfFrom_cons.2 ⟨hb, hw, ih hm (by omega)⟩

theorem Memory.byteAt_put_from {lo a : Nat} {m : Memory} (v : Byte) (x : Nat) (h : Memory.wfFrom lo m = true) :
    (m.put a v).byteAt x = if x = a then v else m.byteAt x := by
  induction m generalizing lo with
  | nil =>
    unfold Memory.put
    split
    · rename_i hv
      split
      · rw [hv]; rfl
      · rfl
    · by_cases hx : x = a
      · simp [Memory.byteAt, hx]
      · simp [Memory.byteAt, hx, Ne.symm hx]
  | cons c m ih =>
    obtain ⟨b, w⟩ := c
    rw [Memory.wfFrom_cons] at h
    obtain ⟨hb, hw, hm⟩ := h
    unfold Memory.put
    split
    · rename_i hab
      have hz : ∀ x, x ≤ a → Memory.byteAt ((b, w) :: m) x = 0 := fun x hx =>
        Memory.byteAt_below (lo := b) (Memory.wfFrom_cons.2 ⟨le_refl b, hw, hm⟩) (by omega)
      split
      · rename_i hv
        split
        · rw [hz x (by omega), hv]
        · rfl
      · by_cases hx : x = a
        · simp [Memory.byteAt, hx]
        · simp [Memory.byteAt, hx, Ne.symm hx]
    · split
      · rename_i hab
        split
        · rename_i hv
          by_cases hx : x = a
          · rw [if_pos hx, hv]
            exact Memory.byteAt_below hm (by omega)
          · have : b ≠ x := by omega
            simp [Memory.byteAt, hx, this]
        · by_cases hx : x = a
          · simp [Memory.byteAt, hx]
          · have h1 : a ≠ x := Ne.symm hx
            have h2 : b ≠ x := by omega
            simp [Memory.byteAt, hx, h1, h2]
      · by_cases hx : x = b
        · have : x ≠ a := by omega
          simp [Memory.byteAt, hx, show b ≠ a by omega]
        · simp [Memory.byteAt, Ne.symm hx, ih hm]

/-- Read after write: the byte stored, and every other byte as before. -/
theorem Memory.byteAt_put {m : Memory} (h : m.wf = true) (a : Nat) (v : Byte) (x : Nat) :
    (m.put a v).byteAt x = if x = a then v else m.byteAt x :=
  Memory.byteAt_put_from v x h

theorem Memory.wf_put {m : Memory} (h : m.wf = true) (a : Nat) (v : Byte) : (m.put a v).wf = true :=
  Memory.wfFrom_put v h (Nat.zero_le a)

theorem Memory.within_cons {b size : Nat} {v : Byte} {m : Memory} :
    Memory.within ((b, v) :: m) size = true ↔ b < size ∧ m.within size = true := by
  simp [Memory.within]

theorem Memory.within_put {m : Memory} {size a : Nat} (h : m.within size = true) (ha : a < size) (v : Byte) :
    (m.put a v).within size = true := by
  induction m with
  | nil =>
    unfold Memory.put
    split
    · rfl
    · exact Memory.within_cons.2 ⟨ha, rfl⟩
  | cons c m ih =>
    obtain ⟨b, w⟩ := c
    have h' := Memory.within_cons.1 h
    unfold Memory.put
    split
    · split
      · exact h
      · exact Memory.within_cons.2 ⟨ha, h⟩
    · split
      · split
        · exact h'.2
        · exact Memory.within_cons.2 ⟨ha, h'.2⟩
      · exact Memory.within_cons.2 ⟨h'.1, ih h'.2⟩

theorem Memory.byteAt_beyond {m : Memory} {size a : Nat} (h : m.within size = true) (ha : size ≤ a) :
    m.byteAt a = 0 := by
  induction m with
  | nil => rfl
  | cons c m ih =>
    obtain ⟨b, w⟩ := c
    have h' := Memory.within_cons.1 h
    have : b ≠ a := by omega
    simpa [Memory.byteAt, this] using ih h'.2

theorem Memory.ext_from {lo : Nat} {m m' : Memory} (h : Memory.wfFrom lo m = true) (h' : Memory.wfFrom lo m' = true)
    (he : ∀ a, m.byteAt a = m'.byteAt a) : m = m' := by
  induction m generalizing lo m' with
  | nil =>
    cases m' with
    | nil => rfl
    | cons c m' =>
      obtain ⟨b, v⟩ := c
      rw [Memory.wfFrom_cons] at h'
      have := he b
      simp [Memory.byteAt] at this
      exact absurd this.symm h'.2.1
  | cons c m ih =>
    obtain ⟨b, v⟩ := c
    have hb := he b
    rw [Memory.wfFrom_cons] at h
    cases m' with
    | nil =>
      simp [Memory.byteAt] at hb
      exact absurd hb h.2.1
    | cons c' m' =>
      obtain ⟨b', v'⟩ := c'
      rw [Memory.wfFrom_cons] at h'
      have hb' := he b'
      have hbb : b = b' := by
        rcases Nat.lt_trichotomy b b' with hlt | heq | hgt
        · have h0 : Memory.byteAt ((b', v') :: m') b = 0 :=
            Memory.byteAt_below (lo := b') (Memory.wfFrom_cons.2 ⟨le_refl b', h'.2.1, h'.2.2⟩) hlt
          rw [h0] at hb
          simp [Memory.byteAt] at hb
          exact absurd hb h.2.1
        · exact heq
        · have h0 : Memory.byteAt ((b, v) :: m) b' = 0 :=
            Memory.byteAt_below (lo := b) (Memory.wfFrom_cons.2 ⟨le_refl b, h.2.1, h.2.2⟩) hgt
          rw [h0] at hb'
          simp [Memory.byteAt] at hb'
          exact absurd hb'.symm h'.2.1
      subst hbb
      have hv : v = v' := by simpa [Memory.byteAt] using hb
      subst hv
      have hrest : m = m' := by
        refine ih h.2.2 h'.2.2 fun a => ?_
        by_cases ha : b = a
        · subst ha
          rw [Memory.byteAt_below h.2.2 (Nat.lt_succ_self b), Memory.byteAt_below h'.2.2 (Nat.lt_succ_self b)]
        · simpa [Memory.byteAt, ha] using he a
      rw [hrest]

/-- Equal contents in canonical form are equal lists. -/
theorem Memory.ext {m m' : Memory} (h : m.wf = true) (h' : m'.wf = true) (he : ∀ a, m.byteAt a = m'.byteAt a) :
    m = m' :=
  Memory.ext_from h h' he

/-! ## Several bytes -/

theorem Memory.wf_putList {m : Memory} (h : m.wf = true) (a : Nat) (vs : List Byte) :
    (m.putList a vs).wf = true := by
  induction vs generalizing m a with
  | nil => exact h
  | cons v vs ih => exact ih (Memory.wf_put h a v) (a + 1)

theorem Memory.within_putList {m : Memory} {size a : Nat} (vs : List Byte) (h : m.within size = true)
    (ha : a + vs.length ≤ size) : (m.putList a vs).within size = true := by
  induction vs generalizing m a with
  | nil => exact h
  | cons v vs ih =>
    simp only [List.length_cons] at ha
    exact ih (Memory.within_put h (by omega) v) (by omega)

/-- The bytes stored, in order, and every other byte as before. -/
theorem Memory.byteAt_putList {m : Memory} (h : m.wf = true) (a : Nat) (vs : List Byte) (x : Nat) :
    (m.putList a vs).byteAt x = if a ≤ x ∧ x < a + vs.length then vs.getD (x - a) 0 else m.byteAt x := by
  induction vs generalizing m a with
  | nil =>
    rw [if_neg (by simp only [List.length_nil]; omega)]
    rfl
  | cons v vs ih =>
    simp only [Memory.putList, ih (Memory.wf_put h a v), Memory.byteAt_put h, List.length_cons]
    by_cases hx : x = a
    · subst hx
      simp
    · by_cases hr : a ≤ x ∧ x < a + (vs.length + 1)
      · have h1 : a + 1 ≤ x ∧ x < a + 1 + vs.length := by omega
        have h2 : x - a = (x - (a + 1)) + 1 := by omega
        rw [if_pos h1, if_pos hr, h2, List.getD_cons_succ]
      · have h1 : ¬(a + 1 ≤ x ∧ x < a + 1 + vs.length) := by omega
        rw [if_neg h1, if_neg hr, if_neg hx]

theorem Memory.wf_putFree {m : Memory} (h : m.wf = true) (a k n : Nat) : (m.putFree a k n).wf = true := by
  induction n generalizing m a k with
  | zero => exact h
  | succ n ih => exact ih (Memory.wf_put h a _) (a + 1) (k + 1)

theorem Memory.within_putFree {m : Memory} {size a : Nat} (k n : Nat) (h : m.within size = true)
    (ha : a + n ≤ size) : (m.putFree a k n).within size = true := by
  induction n generalizing m a k with
  | zero => exact h
  | succ n ih => exact ih (k + 1) (Memory.within_put h (by omega) _) (by omega)

/-- Outside the bytes that take unspecified values nothing changes. -/
theorem Memory.byteAt_putFree {m : Memory} (h : m.wf = true) {a n x : Nat} (k : Nat) (hx : x < a ∨ a + n ≤ x) :
    (m.putFree a k n).byteAt x = m.byteAt x := by
  induction n generalizing m a k with
  | zero => rfl
  | succ n ih =>
    have hxa : x ≠ a := by omega
    rw [Memory.putFree, ih (Memory.wf_put h a _) (k + 1) (by omega), Memory.byteAt_put h, if_neg hxa]

@[simp] theorem Memory.length_slice (m : Memory) (a n : Nat) : (m.slice a n).length = n := by
  induction n generalizing a with
  | zero => rfl
  | succ n ih => simp [Memory.slice, ih]

theorem Memory.getD_slice (m : Memory) (a n k : Nat) :
    (m.slice a n).getD k 0 = if k < n then m.byteAt (a + k) else 0 := by
  induction n generalizing a k with
  | zero => simp [Memory.slice]
  | succ n ih =>
    cases k with
    | zero => simp [Memory.slice]
    | succ k =>
      have h1 : a + 1 + k = a + (k + 1) := by omega
      simp only [Memory.slice, List.getD_cons_succ, ih, h1, Nat.add_lt_add_iff_right]

theorem Memory.slice_eq_map (m : Memory) (a n : Nat) :
    m.slice a n = (List.range n).map fun k => m.byteAt (a + k) := by
  refine List.ext_getElem (by simp) fun k h1 h2 => ?_
  have hk : k < n := by simpa using h1
  have := Memory.getD_slice m a n k
  rw [List.getD_eq_getElem _ _ h1, if_pos hk] at this
  simpa using this

theorem Memory.slice_congr {m m' : Memory} {a n : Nat} (h : ∀ k, k < n → m.byteAt (a + k) = m'.byteAt (a + k)) :
    m.slice a n = m'.slice a n := by
  rw [Memory.slice_eq_map, Memory.slice_eq_map]
  exact List.map_congr_left fun k hk => h k (List.mem_range.1 hk)

/-! ## Words -/

/-- A word is its four bytes, most significant first. -/
theorem word_of_bytes (v : Word) :
    v.extractLsb' 24 8 ++ v.extractLsb' 16 8 ++ v.extractLsb' 8 8 ++ v.extractLsb' 0 8 = v := by
  refine BitVec.eq_of_getLsbD_eq fun i hi => ?_
  simp only [BitVec.getLsbD_append, BitVec.getLsbD_extractLsb']
  by_cases h1 : i < 8
  · simp [h1]
  · by_cases h2 : i < 16
    · simp [h1, show i - 8 < 8 by omega, show 8 + (i - 8) = i by omega]
    · by_cases h3 : i < 24
      · simp [h1, show ¬ i - 8 < 8 by omega, show i - 8 - 8 < 8 by omega, show 16 + (i - 8 - 8) = i by omega]
      · simp [h1, show ¬ i - 8 < 8 by omega, show ¬ i - 8 - 8 < 8 by omega, show i - 8 - 8 - 8 < 8 by omega,
          show 24 + (i - 8 - 8 - 8) = i by omega]

/-- The value of four bytes, most significant first, is their little-endian sum (R14). -/
theorem bytes_toNat (b₃ b₂ b₁ b₀ : Byte) :
    (b₃ ++ b₂ ++ b₁ ++ b₀ : Word).toNat =
      b₀.toNat + 256 * b₁.toNat + 256 ^ 2 * b₂.toNat + 256 ^ 3 * b₃.toNat := by
  have h : (b₃ ++ b₂ ++ b₁ ++ b₀ : Word).toNat = (b₃ ++ b₂ ++ b₁ ++ b₀).toNat := rfl
  rw [h, BitVec.toNat_append, BitVec.toNat_append, BitVec.toNat_append, ← Nat.shiftLeft_add_eq_or_of_lt b₀.isLt,
    ← Nat.shiftLeft_add_eq_or_of_lt b₁.isLt, ← Nat.shiftLeft_add_eq_or_of_lt b₂.isLt]
  simp only [Nat.shiftLeft_eq]
  omega

/-- The low `n` bytes of a word are its value modulo `256 ^ n`. -/
theorem Size.low_toNat (n : Size) (v : Word) : (n.low v).toNat = v.toNat % 256 ^ n.bytes := by
  cases n
  · have h : (Size.low .one v).toNat = ((0 : BitVec 24) ++ v.extractLsb' 0 8).toNat := rfl
    rw [h, BitVec.toNat_append]
    simp [Size.bytes]
  · have h : (Size.low .two v).toNat = ((0 : BitVec 16) ++ v.extractLsb' 0 16).toNat := rfl
    rw [h, BitVec.toNat_append]
    simp [Size.bytes]
  · have := v.isLt
    simp [Size.low, Size.bytes]
    omega

@[simp] theorem length_leBytes_four (v : Word) : (leBytes 4 v).length = 4 := rfl

theorem length_leBytes_size (n : Size) (v : Word) : (leBytes n.bytes v).length = n.bytes := by
  cases n <;> rfl

theorem Memory.wf_write {m : Memory} (h : m.wf = true) (a : Nat) (n : Size) (v : Word) :
    (m.write a n v).wf = true :=
  Memory.wf_putList h a _

theorem Memory.within_write {m : Memory} {size a : Nat} (n : Size) (v : Word) (h : m.within size = true)
    (ha : a + n.bytes ≤ size) : (m.write a n v).within size = true :=
  Memory.within_putList _ h (by rw [length_leBytes_size]; exact ha)

/-- A wide store, byte by byte. -/
theorem Memory.byteAt_write {m : Memory} (h : m.wf = true) (a : Nat) (n : Size) (v : Word) (x : Nat) :
    (m.write a n v).byteAt x =
      if a ≤ x ∧ x < a + n.bytes then (leBytes n.bytes v).getD (x - a) 0 else m.byteAt x := by
  rw [Memory.write, Memory.byteAt_putList h, length_leBytes_size]

theorem Memory.byteAt_write_off {m : Memory} (h : m.wf = true) {a x : Nat} (n : Size) (v : Word)
    (hx : x < a ∨ a + n.bytes ≤ x) : (m.write a n v).byteAt x = m.byteAt x := by
  rw [Memory.byteAt_write h, if_neg (by omega)]

theorem Memory.read_congr {m m' : Memory} {a : Nat} (n : Size)
    (h : ∀ k, k < 4 → m.byteAt (a + k) = m'.byteAt (a + k)) : m.read a n = m'.read a n := by
  have h0 := h 0 (by omega)
  rw [Nat.add_zero] at h0
  rw [Memory.read, Memory.read, h0, h 1 (by omega), h 2 (by omega), h 3 (by omega)]

/-- A word stored is the word read. -/
theorem Memory.read_write_four {m : Memory} (h : m.wf = true) (a : Nat) (v : Word) :
    (m.write a .four v).read a .four = v := by
  have hb : ∀ k, k < 4 → (m.write a .four v).byteAt (a + k) = (leBytes 4 v).getD k 0 := fun k hk => by
    rw [Memory.byteAt_write h, if_pos ⟨by omega, by simpa [Size.bytes] using hk⟩, Nat.add_sub_cancel_left]
    rfl
  have h0 := hb 0 (by omega)
  rw [Nat.add_zero] at h0
  rw [Memory.read, h0, hb 1 (by omega), hb 2 (by omega), hb 3 (by omega)]
  exact word_of_bytes v

theorem Memory.read_write_off {m : Memory} (h : m.wf = true) {a b : Nat} (n : Size) (v : Word)
    (hx : b + 4 ≤ a ∨ a + n.bytes ≤ b) (k : Size) : (m.write a n v).read b k = m.read b k :=
  Memory.read_congr k fun i hi => Memory.byteAt_write_off h n v (by omega)

end Sys2Proof.Machine
end

