-- ==== Sys2Proof/Laws/State.lean ====
section
/-! SUPPORT. For each named update of State, one lemma per field: what the field holds afterwards. No later proof
unfolds a record update. -/

namespace Sys2Proof.Machine

variable (s : State)

/-! ### setMem -/

@[simp] theorem State.setMem_cfg (m : Memory) : (s.setMem m).cfg = s.cfg := rfl
@[simp] theorem State.setMem_alignEn (m : Memory) : (s.setMem m).alignEn = s.alignEn := rfl
@[simp] theorem State.setMem_irqEn (m : Memory) : (s.setMem m).irqEn = s.irqEn := rfl
@[simp] theorem State.setMem_busy (m : Memory) : (s.setMem m).busy = s.busy := rfl
@[simp] theorem State.setMem_done (m : Memory) : (s.setMem m).done = s.done := rfl
@[simp] theorem State.setMem_ok (m : Memory) : (s.setMem m).ok = s.ok := rfl
@[simp] theorem State.setMem_fatal (m : Memory) : (s.setMem m).fatal = s.fatal := rfl
@[simp] theorem State.setMem_busyErr (m : Memory) : (s.setMem m).busyErr = s.busyErr := rfl
@[simp] theorem State.setMem_err (m : Memory) : (s.setMem m).err = s.err := rfl
@[simp] theorem State.setMem_pend (m : Memory) : (s.setMem m).pend = s.pend := rfl
@[simp] theorem State.setMem_base (m : Memory) : (s.setMem m).base = s.base := rfl
@[simp] theorem State.setMem_len (m : Memory) : (s.setMem m).len = s.len := rfl
@[simp] theorem State.setMem_maxLen (m : Memory) : (s.setMem m).maxLen = s.maxLen := rfl
@[simp] theorem State.setMem_crc (m : Memory) : (s.setMem m).crc = s.crc := rfl
@[simp] theorem State.setMem_midx (m : Memory) : (s.setMem m).midx = s.midx := rfl
@[simp] theorem State.setMem_moff (m : Memory) : (s.setMem m).moff = s.moff := rfl
@[simp] theorem State.setMem_drops (m : Memory) : (s.setMem m).drops = s.drops := rfl
@[simp] theorem State.setMem_arg (m : Memory) : (s.setMem m).arg = s.arg := rfl
@[simp] theorem State.setMem_recd (m : Memory) : (s.setMem m).recd = s.recd := rfl
@[simp] theorem State.setMem_qdata (m : Memory) : (s.setMem m).qdata = s.qdata := rfl
@[simp] theorem State.setMem_qdlen (m : Memory) : (s.setMem m).qdlen = s.qdlen := rfl
@[simp] theorem State.setMem_qhead (m : Memory) : (s.setMem m).qhead = s.qhead := rfl
@[simp] theorem State.setMem_qtail (m : Memory) : (s.setMem m).qtail = s.qtail := rfl
@[simp] theorem State.setMem_qcap (m : Memory) : (s.setMem m).qcap = s.qcap := rfl
@[simp] theorem State.setMem_mem (m : Memory) : (s.setMem m).mem = m := rfl
@[simp] theorem State.setMem_order (m : Memory) : (s.setMem m).order = s.order := rfl
@[simp] theorem State.setMem_answer (m : Memory) : (s.setMem m).answer = s.answer := rfl
@[simp] theorem State.setMem_free (m : Memory) : (s.setMem m).free = s.free := rfl

/-! ### setLen -/

@[simp] theorem State.setLen_cfg (v : Word) : (s.setLen v).cfg = s.cfg := rfl
@[simp] theorem State.setLen_alignEn (v : Word) : (s.setLen v).alignEn = s.alignEn := rfl
@[simp] theorem State.setLen_irqEn (v : Word) : (s.setLen v).irqEn = s.irqEn := rfl
@[simp] theorem State.setLen_busy (v : Word) : (s.setLen v).busy = s.busy := rfl
@[simp] theorem State.setLen_done (v : Word) : (s.setLen v).done = s.done := rfl
@[simp] theorem State.setLen_ok (v : Word) : (s.setLen v).ok = s.ok := rfl
@[simp] theorem State.setLen_fatal (v : Word) : (s.setLen v).fatal = s.fatal := rfl
@[simp] theorem State.setLen_busyErr (v : Word) : (s.setLen v).busyErr = s.busyErr := rfl
@[simp] theorem State.setLen_err (v : Word) : (s.setLen v).err = s.err := rfl
@[simp] theorem State.setLen_pend (v : Word) : (s.setLen v).pend = s.pend := rfl
@[simp] theorem State.setLen_base (v : Word) : (s.setLen v).base = s.base := rfl
@[simp] theorem State.setLen_len (v : Word) : (s.setLen v).len = v := rfl
@[simp] theorem State.setLen_maxLen (v : Word) : (s.setLen v).maxLen = s.maxLen := rfl
@[simp] theorem State.setLen_crc (v : Word) : (s.setLen v).crc = s.crc := rfl
@[simp] theorem State.setLen_midx (v : Word) : (s.setLen v).midx = s.midx := rfl
@[simp] theorem State.setLen_moff (v : Word) : (s.setLen v).moff = s.moff := rfl
@[simp] theorem State.setLen_drops (v : Word) : (s.setLen v).drops = s.drops := rfl
@[simp] theorem State.setLen_arg (v : Word) : (s.setLen v).arg = s.arg := rfl
@[simp] theorem State.setLen_recd (v : Word) : (s.setLen v).recd = s.recd := rfl
@[simp] theorem State.setLen_qdata (v : Word) : (s.setLen v).qdata = s.qdata := rfl
@[simp] theorem State.setLen_qdlen (v : Word) : (s.setLen v).qdlen = s.qdlen := rfl
@[simp] theorem State.setLen_qhead (v : Word) : (s.setLen v).qhead = s.qhead := rfl
@[simp] theorem State.setLen_qtail (v : Word) : (s.setLen v).qtail = s.qtail := rfl
@[simp] theorem State.setLen_qcap (v : Word) : (s.setLen v).qcap = s.qcap := rfl
@[simp] theorem State.setLen_mem (v : Word) : (s.setLen v).mem = s.mem := rfl
@[simp] theorem State.setLen_order (v : Word) : (s.setLen v).order = s.order := rfl
@[simp] theorem State.setLen_answer (v : Word) : (s.setLen v).answer = s.answer := rfl
@[simp] theorem State.setLen_free (v : Word) : (s.setLen v).free = s.free := rfl

/-! ### setCrc -/

@[simp] theorem State.setCrc_cfg (v : Word) : (s.setCrc v).cfg = s.cfg := rfl
@[simp] theorem State.setCrc_alignEn (v : Word) : (s.setCrc v).alignEn = s.alignEn := rfl
@[simp] theorem State.setCrc_irqEn (v : Word) : (s.setCrc v).irqEn = s.irqEn := rfl
@[simp] theorem State.setCrc_busy (v : Word) : (s.setCrc v).busy = s.busy := rfl
@[simp] theorem State.setCrc_done (v : Word) : (s.setCrc v).done = s.done := rfl
@[simp] theorem State.setCrc_ok (v : Word) : (s.setCrc v).ok = s.ok := rfl
@[simp] theorem State.setCrc_fatal (v : Word) : (s.setCrc v).fatal = s.fatal := rfl
@[simp] theorem State.setCrc_busyErr (v : Word) : (s.setCrc v).busyErr = s.busyErr := rfl
@[simp] theorem State.setCrc_err (v : Word) : (s.setCrc v).err = s.err := rfl
@[simp] theorem State.setCrc_pend (v : Word) : (s.setCrc v).pend = s.pend := rfl
@[simp] theorem State.setCrc_base (v : Word) : (s.setCrc v).base = s.base := rfl
@[simp] theorem State.setCrc_len (v : Word) : (s.setCrc v).len = s.len := rfl
@[simp] theorem State.setCrc_maxLen (v : Word) : (s.setCrc v).maxLen = s.maxLen := rfl
@[simp] theorem State.setCrc_crc (v : Word) : (s.setCrc v).crc = v := rfl
@[simp] theorem State.setCrc_midx (v : Word) : (s.setCrc v).midx = s.midx := rfl
@[simp] theorem State.setCrc_moff (v : Word) : (s.setCrc v).moff = s.moff := rfl
@[simp] theorem State.setCrc_drops (v : Word) : (s.setCrc v).drops = s.drops := rfl
@[simp] theorem State.setCrc_arg (v : Word) : (s.setCrc v).arg = s.arg := rfl
@[simp] theorem State.setCrc_recd (v : Word) : (s.setCrc v).recd = s.recd := rfl
@[simp] theorem State.setCrc_qdata (v : Word) : (s.setCrc v).qdata = s.qdata := rfl
@[simp] theorem State.setCrc_qdlen (v : Word) : (s.setCrc v).qdlen = s.qdlen := rfl
@[simp] theorem State.setCrc_qhead (v : Word) : (s.setCrc v).qhead = s.qhead := rfl
@[simp] theorem State.setCrc_qtail (v : Word) : (s.setCrc v).qtail = s.qtail := rfl
@[simp] theorem State.setCrc_qcap (v : Word) : (s.setCrc v).qcap = s.qcap := rfl
@[simp] theorem State.setCrc_mem (v : Word) : (s.setCrc v).mem = s.mem := rfl
@[simp] theorem State.setCrc_order (v : Word) : (s.setCrc v).order = s.order := rfl
@[simp] theorem State.setCrc_answer (v : Word) : (s.setCrc v).answer = s.answer := rfl
@[simp] theorem State.setCrc_free (v : Word) : (s.setCrc v).free = s.free := rfl

/-! ### setMatch -/

@[simp] theorem State.setMatch_cfg (i j : Word) : (s.setMatch i j).cfg = s.cfg := rfl
@[simp] theorem State.setMatch_alignEn (i j : Word) : (s.setMatch i j).alignEn = s.alignEn := rfl
@[simp] theorem State.setMatch_irqEn (i j : Word) : (s.setMatch i j).irqEn = s.irqEn := rfl
@[simp] theorem State.setMatch_busy (i j : Word) : (s.setMatch i j).busy = s.busy := rfl
@[simp] theorem State.setMatch_done (i j : Word) : (s.setMatch i j).done = s.done := rfl
@[simp] theorem State.setMatch_ok (i j : Word) : (s.setMatch i j).ok = s.ok := rfl
@[simp] theorem State.setMatch_fatal (i j : Word) : (s.setMatch i j).fatal = s.fatal := rfl
@[simp] theorem State.setMatch_busyErr (i j : Word) : (s.setMatch i j).busyErr = s.busyErr := rfl
@[simp] theorem State.setMatch_err (i j : Word) : (s.setMatch i j).err = s.err := rfl
@[simp] theorem State.setMatch_pend (i j : Word) : (s.setMatch i j).pend = s.pend := rfl
@[simp] theorem State.setMatch_base (i j : Word) : (s.setMatch i j).base = s.base := rfl
@[simp] theorem State.setMatch_len (i j : Word) : (s.setMatch i j).len = s.len := rfl
@[simp] theorem State.setMatch_maxLen (i j : Word) : (s.setMatch i j).maxLen = s.maxLen := rfl
@[simp] theorem State.setMatch_crc (i j : Word) : (s.setMatch i j).crc = s.crc := rfl
@[simp] theorem State.setMatch_midx (i j : Word) : (s.setMatch i j).midx = i := rfl
@[simp] theorem State.setMatch_moff (i j : Word) : (s.setMatch i j).moff = j := rfl
@[simp] theorem State.setMatch_drops (i j : Word) : (s.setMatch i j).drops = s.drops := rfl
@[simp] theorem State.setMatch_arg (i j : Word) : (s.setMatch i j).arg = s.arg := rfl
@[simp] theorem State.setMatch_recd (i j : Word) : (s.setMatch i j).recd = s.recd := rfl
@[simp] theorem State.setMatch_qdata (i j : Word) : (s.setMatch i j).qdata = s.qdata := rfl
@[simp] theorem State.setMatch_qdlen (i j : Word) : (s.setMatch i j).qdlen = s.qdlen := rfl
@[simp] theorem State.setMatch_qhead (i j : Word) : (s.setMatch i j).qhead = s.qhead := rfl
@[simp] theorem State.setMatch_qtail (i j : Word) : (s.setMatch i j).qtail = s.qtail := rfl
@[simp] theorem State.setMatch_qcap (i j : Word) : (s.setMatch i j).qcap = s.qcap := rfl
@[simp] theorem State.setMatch_mem (i j : Word) : (s.setMatch i j).mem = s.mem := rfl
@[simp] theorem State.setMatch_order (i j : Word) : (s.setMatch i j).order = s.order := rfl
@[simp] theorem State.setMatch_answer (i j : Word) : (s.setMatch i j).answer = s.answer := rfl
@[simp] theorem State.setMatch_free (i j : Word) : (s.setMatch i j).free = s.free := rfl

/-! ### bumpDrops -/

@[simp] theorem State.bumpDrops_cfg : (s.bumpDrops).cfg = s.cfg := rfl
@[simp] theorem State.bumpDrops_alignEn : (s.bumpDrops).alignEn = s.alignEn := rfl
@[simp] theorem State.bumpDrops_irqEn : (s.bumpDrops).irqEn = s.irqEn := rfl
@[simp] theorem State.bumpDrops_busy : (s.bumpDrops).busy = s.busy := rfl
@[simp] theorem State.bumpDrops_done : (s.bumpDrops).done = s.done := rfl
@[simp] theorem State.bumpDrops_ok : (s.bumpDrops).ok = s.ok := rfl
@[simp] theorem State.bumpDrops_fatal : (s.bumpDrops).fatal = s.fatal := rfl
@[simp] theorem State.bumpDrops_busyErr : (s.bumpDrops).busyErr = s.busyErr := rfl
@[simp] theorem State.bumpDrops_err : (s.bumpDrops).err = s.err := rfl
@[simp] theorem State.bumpDrops_pend : (s.bumpDrops).pend = s.pend := rfl
@[simp] theorem State.bumpDrops_base : (s.bumpDrops).base = s.base := rfl
@[simp] theorem State.bumpDrops_len : (s.bumpDrops).len = s.len := rfl
@[simp] theorem State.bumpDrops_maxLen : (s.bumpDrops).maxLen = s.maxLen := rfl
@[simp] theorem State.bumpDrops_crc : (s.bumpDrops).crc = s.crc := rfl
@[simp] theorem State.bumpDrops_midx : (s.bumpDrops).midx = s.midx := rfl
@[simp] theorem State.bumpDrops_moff : (s.bumpDrops).moff = s.moff := rfl
@[simp] theorem State.bumpDrops_drops : (s.bumpDrops).drops = s.drops + 1 := rfl
@[simp] theorem State.bumpDrops_arg : (s.bumpDrops).arg = s.arg := rfl
@[simp] theorem State.bumpDrops_recd : (s.bumpDrops).recd = s.recd := rfl
@[simp] theorem State.bumpDrops_qdata : (s.bumpDrops).qdata = s.qdata := rfl
@[simp] theorem State.bumpDrops_qdlen : (s.bumpDrops).qdlen = s.qdlen := rfl
@[simp] theorem State.bumpDrops_qhead : (s.bumpDrops).qhead = s.qhead := rfl
@[simp] theorem State.bumpDrops_qtail : (s.bumpDrops).qtail = s.qtail := rfl
@[simp] theorem State.bumpDrops_qcap : (s.bumpDrops).qcap = s.qcap := rfl
@[simp] theorem State.bumpDrops_mem : (s.bumpDrops).mem = s.mem := rfl
@[simp] theorem State.bumpDrops_order : (s.bumpDrops).order = s.order := rfl
@[simp] theorem State.bumpDrops_answer : (s.bumpDrops).answer = s.answer := rfl
@[simp] theorem State.bumpDrops_free : (s.bumpDrops).free = s.free := rfl

/-! ### setRec -/

@[simp] theorem State.setRec_cfg (r : Word) : (s.setRec r).cfg = s.cfg := rfl
@[simp] theorem State.setRec_alignEn (r : Word) : (s.setRec r).alignEn = s.alignEn := rfl
@[simp] theorem State.setRec_irqEn (r : Word) : (s.setRec r).irqEn = s.irqEn := rfl
@[simp] theorem State.setRec_busy (r : Word) : (s.setRec r).busy = s.busy := rfl
@[simp] theorem State.setRec_done (r : Word) : (s.setRec r).done = s.done := rfl
@[simp] theorem State.setRec_ok (r : Word) : (s.setRec r).ok = s.ok := rfl
@[simp] theorem State.setRec_fatal (r : Word) : (s.setRec r).fatal = s.fatal := rfl
@[simp] theorem State.setRec_busyErr (r : Word) : (s.setRec r).busyErr = s.busyErr := rfl
@[simp] theorem State.setRec_err (r : Word) : (s.setRec r).err = s.err := rfl
@[simp] theorem State.setRec_pend (r : Word) : (s.setRec r).pend = s.pend := rfl
@[simp] theorem State.setRec_base (r : Word) : (s.setRec r).base = s.base := rfl
@[simp] theorem State.setRec_len (r : Word) : (s.setRec r).len = s.len := rfl
@[simp] theorem State.setRec_maxLen (r : Word) : (s.setRec r).maxLen = s.maxLen := rfl
@[simp] theorem State.setRec_crc (r : Word) : (s.setRec r).crc = s.crc := rfl
@[simp] theorem State.setRec_midx (r : Word) : (s.setRec r).midx = s.midx := rfl
@[simp] theorem State.setRec_moff (r : Word) : (s.setRec r).moff = s.moff := rfl
@[simp] theorem State.setRec_drops (r : Word) : (s.setRec r).drops = s.drops := rfl
@[simp] theorem State.setRec_arg (r : Word) : (s.setRec r).arg = s.arg := rfl
@[simp] theorem State.setRec_recd (r : Word) : (s.setRec r).recd = r := rfl
@[simp] theorem State.setRec_qdata (r : Word) : (s.setRec r).qdata = s.qdata := rfl
@[simp] theorem State.setRec_qdlen (r : Word) : (s.setRec r).qdlen = s.qdlen := rfl
@[simp] theorem State.setRec_qhead (r : Word) : (s.setRec r).qhead = s.qhead := rfl
@[simp] theorem State.setRec_qtail (r : Word) : (s.setRec r).qtail = s.qtail := rfl
@[simp] theorem State.setRec_qcap (r : Word) : (s.setRec r).qcap = s.qcap := rfl
@[simp] theorem State.setRec_mem (r : Word) : (s.setRec r).mem = s.mem := rfl
@[simp] theorem State.setRec_order (r : Word) : (s.setRec r).order = s.order := rfl
@[simp] theorem State.setRec_answer (r : Word) : (s.setRec r).answer = s.answer := rfl
@[simp] theorem State.setRec_free (r : Word) : (s.setRec r).free = s.free := rfl

/-! ### setView -/

@[simp] theorem State.setView_cfg (d n : Word) : (s.setView d n).cfg = s.cfg := rfl
@[simp] theorem State.setView_alignEn (d n : Word) : (s.setView d n).alignEn = s.alignEn := rfl
@[simp] theorem State.setView_irqEn (d n : Word) : (s.setView d n).irqEn = s.irqEn := rfl
@[simp] theorem State.setView_busy (d n : Word) : (s.setView d n).busy = s.busy := rfl
@[simp] theorem State.setView_done (d n : Word) : (s.setView d n).done = s.done := rfl
@[simp] theorem State.setView_ok (d n : Word) : (s.setView d n).ok = s.ok := rfl
@[simp] theorem State.setView_fatal (d n : Word) : (s.setView d n).fatal = s.fatal := rfl
@[simp] theorem State.setView_busyErr (d n : Word) : (s.setView d n).busyErr = s.busyErr := rfl
@[simp] theorem State.setView_err (d n : Word) : (s.setView d n).err = s.err := rfl
@[simp] theorem State.setView_pend (d n : Word) : (s.setView d n).pend = s.pend := rfl
@[simp] theorem State.setView_base (d n : Word) : (s.setView d n).base = s.base := rfl
@[simp] theorem State.setView_len (d n : Word) : (s.setView d n).len = s.len := rfl
@[simp] theorem State.setView_maxLen (d n : Word) : (s.setView d n).maxLen = s.maxLen := rfl
@[simp] theorem State.setView_crc (d n : Word) : (s.setView d n).crc = s.crc := rfl
@[simp] theorem State.setView_midx (d n : Word) : (s.setView d n).midx = s.midx := rfl
@[simp] theorem State.setView_moff (d n : Word) : (s.setView d n).moff = s.moff := rfl
@[simp] theorem State.setView_drops (d n : Word) : (s.setView d n).drops = s.drops := rfl
@[simp] theorem State.setView_arg (d n : Word) : (s.setView d n).arg = s.arg := rfl
@[simp] theorem State.setView_recd (d n : Word) : (s.setView d n).recd = s.recd := rfl
@[simp] theorem State.setView_qdata (d n : Word) : (s.setView d n).qdata = d := rfl
@[simp] theorem State.setView_qdlen (d n : Word) : (s.setView d n).qdlen = n := rfl
@[simp] theorem State.setView_qhead (d n : Word) : (s.setView d n).qhead = s.qhead := rfl
@[simp] theorem State.setView_qtail (d n : Word) : (s.setView d n).qtail = s.qtail := rfl
@[simp] theorem State.setView_qcap (d n : Word) : (s.setView d n).qcap = s.qcap := rfl
@[simp] theorem State.setView_mem (d n : Word) : (s.setView d n).mem = s.mem := rfl
@[simp] theorem State.setView_order (d n : Word) : (s.setView d n).order = s.order := rfl
@[simp] theorem State.setView_answer (d n : Word) : (s.setView d n).answer = s.answer := rfl
@[simp] theorem State.setView_free (d n : Word) : (s.setView d n).free = s.free := rfl

/-! ### setEnds -/

@[simp] theorem State.setEnds_cfg (h t : Word) : (s.setEnds h t).cfg = s.cfg := rfl
@[simp] theorem State.setEnds_alignEn (h t : Word) : (s.setEnds h t).alignEn = s.alignEn := rfl
@[simp] theorem State.setEnds_irqEn (h t : Word) : (s.setEnds h t).irqEn = s.irqEn := rfl
@[simp] theorem State.setEnds_busy (h t : Word) : (s.setEnds h t).busy = s.busy := rfl
@[simp] theorem State.setEnds_done (h t : Word) : (s.setEnds h t).done = s.done := rfl
@[simp] theorem State.setEnds_ok (h t : Word) : (s.setEnds h t).ok = s.ok := rfl
@[simp] theorem State.setEnds_fatal (h t : Word) : (s.setEnds h t).fatal = s.fatal := rfl
@[simp] theorem State.setEnds_busyErr (h t : Word) : (s.setEnds h t).busyErr = s.busyErr := rfl
@[simp] theorem State.setEnds_err (h t : Word) : (s.setEnds h t).err = s.err := rfl
@[simp] theorem State.setEnds_pend (h t : Word) : (s.setEnds h t).pend = s.pend := rfl
@[simp] theorem State.setEnds_base (h t : Word) : (s.setEnds h t).base = s.base := rfl
@[simp] theorem State.setEnds_len (h t : Word) : (s.setEnds h t).len = s.len := rfl
@[simp] theorem State.setEnds_maxLen (h t : Word) : (s.setEnds h t).maxLen = s.maxLen := rfl
@[simp] theorem State.setEnds_crc (h t : Word) : (s.setEnds h t).crc = s.crc := rfl
@[simp] theorem State.setEnds_midx (h t : Word) : (s.setEnds h t).midx = s.midx := rfl
@[simp] theorem State.setEnds_moff (h t : Word) : (s.setEnds h t).moff = s.moff := rfl
@[simp] theorem State.setEnds_drops (h t : Word) : (s.setEnds h t).drops = s.drops := rfl
@[simp] theorem State.setEnds_arg (h t : Word) : (s.setEnds h t).arg = s.arg := rfl
@[simp] theorem State.setEnds_recd (h t : Word) : (s.setEnds h t).recd = s.recd := rfl
@[simp] theorem State.setEnds_qdata (h t : Word) : (s.setEnds h t).qdata = s.qdata := rfl
@[simp] theorem State.setEnds_qdlen (h t : Word) : (s.setEnds h t).qdlen = s.qdlen := rfl
@[simp] theorem State.setEnds_qhead (h t : Word) : (s.setEnds h t).qhead = h := rfl
@[simp] theorem State.setEnds_qtail (h t : Word) : (s.setEnds h t).qtail = t := rfl
@[simp] theorem State.setEnds_qcap (h t : Word) : (s.setEnds h t).qcap = s.qcap := rfl
@[simp] theorem State.setEnds_mem (h t : Word) : (s.setEnds h t).mem = s.mem := rfl
@[simp] theorem State.setEnds_order (h t : Word) : (s.setEnds h t).order = s.order := rfl
@[simp] theorem State.setEnds_answer (h t : Word) : (s.setEnds h t).answer = s.answer := rfl
@[simp] theorem State.setEnds_free (h t : Word) : (s.setEnds h t).free = s.free := rfl

/-! ### setCap -/

@[simp] theorem State.setCap_cfg (c : Word) : (s.setCap c).cfg = s.cfg := rfl
@[simp] theorem State.setCap_alignEn (c : Word) : (s.setCap c).alignEn = s.alignEn := rfl
@[simp] theorem State.setCap_irqEn (c : Word) : (s.setCap c).irqEn = s.irqEn := rfl
@[simp] theorem State.setCap_busy (c : Word) : (s.setCap c).busy = s.busy := rfl
@[simp] theorem State.setCap_done (c : Word) : (s.setCap c).done = s.done := rfl
@[simp] theorem State.setCap_ok (c : Word) : (s.setCap c).ok = s.ok := rfl
@[simp] theorem State.setCap_fatal (c : Word) : (s.setCap c).fatal = s.fatal := rfl
@[simp] theorem State.setCap_busyErr (c : Word) : (s.setCap c).busyErr = s.busyErr := rfl
@[simp] theorem State.setCap_err (c : Word) : (s.setCap c).err = s.err := rfl
@[simp] theorem State.setCap_pend (c : Word) : (s.setCap c).pend = s.pend := rfl
@[simp] theorem State.setCap_base (c : Word) : (s.setCap c).base = s.base := rfl
@[simp] theorem State.setCap_len (c : Word) : (s.setCap c).len = s.len := rfl
@[simp] theorem State.setCap_maxLen (c : Word) : (s.setCap c).maxLen = s.maxLen := rfl
@[simp] theorem State.setCap_crc (c : Word) : (s.setCap c).crc = s.crc := rfl
@[simp] theorem State.setCap_midx (c : Word) : (s.setCap c).midx = s.midx := rfl
@[simp] theorem State.setCap_moff (c : Word) : (s.setCap c).moff = s.moff := rfl
@[simp] theorem State.setCap_drops (c : Word) : (s.setCap c).drops = s.drops := rfl
@[simp] theorem State.setCap_arg (c : Word) : (s.setCap c).arg = s.arg := rfl
@[simp] theorem State.setCap_recd (c : Word) : (s.setCap c).recd = s.recd := rfl
@[simp] theorem State.setCap_qdata (c : Word) : (s.setCap c).qdata = s.qdata := rfl
@[simp] theorem State.setCap_qdlen (c : Word) : (s.setCap c).qdlen = s.qdlen := rfl
@[simp] theorem State.setCap_qhead (c : Word) : (s.setCap c).qhead = s.qhead := rfl
@[simp] theorem State.setCap_qtail (c : Word) : (s.setCap c).qtail = s.qtail := rfl
@[simp] theorem State.setCap_qcap (c : Word) : (s.setCap c).qcap = c := rfl
@[simp] theorem State.setCap_mem (c : Word) : (s.setCap c).mem = s.mem := rfl
@[simp] theorem State.setCap_order (c : Word) : (s.setCap c).order = s.order := rfl
@[simp] theorem State.setCap_answer (c : Word) : (s.setCap c).answer = s.answer := rfl
@[simp] theorem State.setCap_free (c : Word) : (s.setCap c).free = s.free := rfl

/-! ### setCtrl -/

@[simp] theorem State.setCtrl_cfg (w : Word) : (s.setCtrl w).cfg = s.cfg := rfl
@[simp] theorem State.setCtrl_alignEn (w : Word) : (s.setCtrl w).alignEn = w.getLsbD 0 := rfl
@[simp] theorem State.setCtrl_irqEn (w : Word) : (s.setCtrl w).irqEn = w.getLsbD 1 := rfl
@[simp] theorem State.setCtrl_busy (w : Word) : (s.setCtrl w).busy = s.busy := rfl
@[simp] theorem State.setCtrl_done (w : Word) : (s.setCtrl w).done = s.done := rfl
@[simp] theorem State.setCtrl_ok (w : Word) : (s.setCtrl w).ok = s.ok := rfl
@[simp] theorem State.setCtrl_fatal (w : Word) : (s.setCtrl w).fatal = s.fatal := rfl
@[simp] theorem State.setCtrl_busyErr (w : Word) : (s.setCtrl w).busyErr = s.busyErr := rfl
@[simp] theorem State.setCtrl_err (w : Word) : (s.setCtrl w).err = s.err := rfl
@[simp] theorem State.setCtrl_pend (w : Word) : (s.setCtrl w).pend = s.pend := rfl
@[simp] theorem State.setCtrl_base (w : Word) : (s.setCtrl w).base = s.base := rfl
@[simp] theorem State.setCtrl_len (w : Word) : (s.setCtrl w).len = s.len := rfl
@[simp] theorem State.setCtrl_maxLen (w : Word) : (s.setCtrl w).maxLen = s.maxLen := rfl
@[simp] theorem State.setCtrl_crc (w : Word) : (s.setCtrl w).crc = s.crc := rfl
@[simp] theorem State.setCtrl_midx (w : Word) : (s.setCtrl w).midx = s.midx := rfl
@[simp] theorem State.setCtrl_moff (w : Word) : (s.setCtrl w).moff = s.moff := rfl
@[simp] theorem State.setCtrl_drops (w : Word) : (s.setCtrl w).drops = s.drops := rfl
@[simp] theorem State.setCtrl_arg (w : Word) : (s.setCtrl w).arg = s.arg := rfl
@[simp] theorem State.setCtrl_recd (w : Word) : (s.setCtrl w).recd = s.recd := rfl
@[simp] theorem State.setCtrl_qdata (w : Word) : (s.setCtrl w).qdata = s.qdata := rfl
@[simp] theorem State.setCtrl_qdlen (w : Word) : (s.setCtrl w).qdlen = s.qdlen := rfl
@[simp] theorem State.setCtrl_qhead (w : Word) : (s.setCtrl w).qhead = s.qhead := rfl
@[simp] theorem State.setCtrl_qtail (w : Word) : (s.setCtrl w).qtail = s.qtail := rfl
@[simp] theorem State.setCtrl_qcap (w : Word) : (s.setCtrl w).qcap = s.qcap := rfl
@[simp] theorem State.setCtrl_mem (w : Word) : (s.setCtrl w).mem = s.mem := rfl
@[simp] theorem State.setCtrl_order (w : Word) : (s.setCtrl w).order = s.order := rfl
@[simp] theorem State.setCtrl_answer (w : Word) : (s.setCtrl w).answer = s.answer := rfl
@[simp] theorem State.setCtrl_free (w : Word) : (s.setCtrl w).free = s.free := rfl

/-! ### complete -/

@[simp] theorem State.complete_cfg (e : ErrCode) : (s.complete e).cfg = s.cfg := rfl
@[simp] theorem State.complete_alignEn (e : ErrCode) : (s.complete e).alignEn = s.alignEn := rfl
@[simp] theorem State.complete_irqEn (e : ErrCode) : (s.complete e).irqEn = s.irqEn := rfl
@[simp] theorem State.complete_busy (e : ErrCode) : (s.complete e).busy = false := rfl
@[simp] theorem State.complete_done (e : ErrCode) : (s.complete e).done = true := rfl
@[simp] theorem State.complete_ok (e : ErrCode) : (s.complete e).ok = okAfter e := rfl
@[simp] theorem State.complete_fatal (e : ErrCode) : (s.complete e).fatal = fatalAfter s.fatal e := rfl
@[simp] theorem State.complete_busyErr (e : ErrCode) : (s.complete e).busyErr = s.busyErr := rfl
@[simp] theorem State.complete_err (e : ErrCode) : (s.complete e).err = e := rfl
@[simp] theorem State.complete_pend (e : ErrCode) : (s.complete e).pend = s.pend := rfl
@[simp] theorem State.complete_base (e : ErrCode) : (s.complete e).base = s.base := rfl
@[simp] theorem State.complete_len (e : ErrCode) : (s.complete e).len = s.len := rfl
@[simp] theorem State.complete_maxLen (e : ErrCode) : (s.complete e).maxLen = s.maxLen := rfl
@[simp] theorem State.complete_crc (e : ErrCode) : (s.complete e).crc = s.crc := rfl
@[simp] theorem State.complete_midx (e : ErrCode) : (s.complete e).midx = s.midx := rfl
@[simp] theorem State.complete_moff (e : ErrCode) : (s.complete e).moff = s.moff := rfl
@[simp] theorem State.complete_drops (e : ErrCode) : (s.complete e).drops = s.drops := rfl
@[simp] theorem State.complete_arg (e : ErrCode) : (s.complete e).arg = s.arg := rfl
@[simp] theorem State.complete_recd (e : ErrCode) : (s.complete e).recd = s.recd := rfl
@[simp] theorem State.complete_qdata (e : ErrCode) : (s.complete e).qdata = s.qdata := rfl
@[simp] theorem State.complete_qdlen (e : ErrCode) : (s.complete e).qdlen = s.qdlen := rfl
@[simp] theorem State.complete_qhead (e : ErrCode) : (s.complete e).qhead = s.qhead := rfl
@[simp] theorem State.complete_qtail (e : ErrCode) : (s.complete e).qtail = s.qtail := rfl
@[simp] theorem State.complete_qcap (e : ErrCode) : (s.complete e).qcap = s.qcap := rfl
@[simp] theorem State.complete_mem (e : ErrCode) : (s.complete e).mem = s.mem := rfl
@[simp] theorem State.complete_order (e : ErrCode) : (s.complete e).order = s.order := rfl
@[simp] theorem State.complete_answer (e : ErrCode) : (s.complete e).answer = s.answer := rfl
@[simp] theorem State.complete_free (e : ErrCode) : (s.complete e).free = s.free := rfl

/-! ### accept -/

@[simp] theorem State.accept_cfg (w : Word) : (s.accept w).cfg = s.cfg := rfl
@[simp] theorem State.accept_alignEn (w : Word) : (s.accept w).alignEn = s.alignEn := rfl
@[simp] theorem State.accept_irqEn (w : Word) : (s.accept w).irqEn = s.irqEn := rfl
@[simp] theorem State.accept_busy (w : Word) : (s.accept w).busy = true := rfl
@[simp] theorem State.accept_done (w : Word) : (s.accept w).done = false := rfl
@[simp] theorem State.accept_ok (w : Word) : (s.accept w).ok = false := rfl
@[simp] theorem State.accept_fatal (w : Word) : (s.accept w).fatal = s.fatal := rfl
@[simp] theorem State.accept_busyErr (w : Word) : (s.accept w).busyErr = s.busyErr := rfl
@[simp] theorem State.accept_err (w : Word) : (s.accept w).err = .noError := rfl
@[simp] theorem State.accept_pend (w : Word) : (s.accept w).pend = w := rfl
@[simp] theorem State.accept_base (w : Word) : (s.accept w).base = s.base := rfl
@[simp] theorem State.accept_len (w : Word) : (s.accept w).len = s.len := rfl
@[simp] theorem State.accept_maxLen (w : Word) : (s.accept w).maxLen = s.maxLen := rfl
@[simp] theorem State.accept_crc (w : Word) : (s.accept w).crc = s.crc := rfl
@[simp] theorem State.accept_midx (w : Word) : (s.accept w).midx = s.midx := rfl
@[simp] theorem State.accept_moff (w : Word) : (s.accept w).moff = s.moff := rfl
@[simp] theorem State.accept_drops (w : Word) : (s.accept w).drops = s.drops := rfl
@[simp] theorem State.accept_arg (w : Word) : (s.accept w).arg = s.arg := rfl
@[simp] theorem State.accept_recd (w : Word) : (s.accept w).recd = s.recd := rfl
@[simp] theorem State.accept_qdata (w : Word) : (s.accept w).qdata = s.qdata := rfl
@[simp] theorem State.accept_qdlen (w : Word) : (s.accept w).qdlen = s.qdlen := rfl
@[simp] theorem State.accept_qhead (w : Word) : (s.accept w).qhead = s.qhead := rfl
@[simp] theorem State.accept_qtail (w : Word) : (s.accept w).qtail = s.qtail := rfl
@[simp] theorem State.accept_qcap (w : Word) : (s.accept w).qcap = s.qcap := rfl
@[simp] theorem State.accept_mem (w : Word) : (s.accept w).mem = s.mem := rfl
@[simp] theorem State.accept_order (w : Word) : (s.accept w).order = s.order := rfl
@[simp] theorem State.accept_answer (w : Word) : (s.accept w).answer = s.answer := rfl
@[simp] theorem State.accept_free (w : Word) : (s.accept w).free = s.free := rfl

/-! ### ackStatus -/

@[simp] theorem State.ackStatus_cfg (w : Word) : (s.ackStatus w).cfg = s.cfg := rfl
@[simp] theorem State.ackStatus_alignEn (w : Word) : (s.ackStatus w).alignEn = s.alignEn := rfl
@[simp] theorem State.ackStatus_irqEn (w : Word) : (s.ackStatus w).irqEn = s.irqEn := rfl
@[simp] theorem State.ackStatus_busy (w : Word) : (s.ackStatus w).busy = s.busy := rfl
@[simp] theorem State.ackStatus_done (w : Word) : (s.ackStatus w).done = (s.done && !w.getLsbD 1) := rfl
@[simp] theorem State.ackStatus_ok (w : Word) : (s.ackStatus w).ok = s.ok := rfl
@[simp] theorem State.ackStatus_fatal (w : Word) : (s.ackStatus w).fatal = s.fatal := rfl
@[simp] theorem State.ackStatus_busyErr (w : Word) : (s.ackStatus w).busyErr = (s.busyErr && !w.getLsbD 8) := rfl
@[simp] theorem State.ackStatus_err (w : Word) : (s.ackStatus w).err = s.err := rfl
@[simp] theorem State.ackStatus_pend (w : Word) : (s.ackStatus w).pend = s.pend := rfl
@[simp] theorem State.ackStatus_base (w : Word) : (s.ackStatus w).base = s.base := rfl
@[simp] theorem State.ackStatus_len (w : Word) : (s.ackStatus w).len = s.len := rfl
@[simp] theorem State.ackStatus_maxLen (w : Word) : (s.ackStatus w).maxLen = s.maxLen := rfl
@[simp] theorem State.ackStatus_crc (w : Word) : (s.ackStatus w).crc = s.crc := rfl
@[simp] theorem State.ackStatus_midx (w : Word) : (s.ackStatus w).midx = s.midx := rfl
@[simp] theorem State.ackStatus_moff (w : Word) : (s.ackStatus w).moff = s.moff := rfl
@[simp] theorem State.ackStatus_drops (w : Word) : (s.ackStatus w).drops = s.drops := rfl
@[simp] theorem State.ackStatus_arg (w : Word) : (s.ackStatus w).arg = s.arg := rfl
@[simp] theorem State.ackStatus_recd (w : Word) : (s.ackStatus w).recd = s.recd := rfl
@[simp] theorem State.ackStatus_qdata (w : Word) : (s.ackStatus w).qdata = s.qdata := rfl
@[simp] theorem State.ackStatus_qdlen (w : Word) : (s.ackStatus w).qdlen = s.qdlen := rfl
@[simp] theorem State.ackStatus_qhead (w : Word) : (s.ackStatus w).qhead = s.qhead := rfl
@[simp] theorem State.ackStatus_qtail (w : Word) : (s.ackStatus w).qtail = s.qtail := rfl
@[simp] theorem State.ackStatus_qcap (w : Word) : (s.ackStatus w).qcap = s.qcap := rfl
@[simp] theorem State.ackStatus_mem (w : Word) : (s.ackStatus w).mem = s.mem := rfl
@[simp] theorem State.ackStatus_order (w : Word) : (s.ackStatus w).order = s.order := rfl
@[simp] theorem State.ackStatus_answer (w : Word) : (s.ackStatus w).answer = s.answer := rfl
@[simp] theorem State.ackStatus_free (w : Word) : (s.ackStatus w).free = s.free := rfl

/-! ### dropWrite -/

@[simp] theorem State.dropWrite_cfg : (s.dropWrite).cfg = s.cfg := rfl
@[simp] theorem State.dropWrite_alignEn : (s.dropWrite).alignEn = s.alignEn := rfl
@[simp] theorem State.dropWrite_irqEn : (s.dropWrite).irqEn = s.irqEn := rfl
@[simp] theorem State.dropWrite_busy : (s.dropWrite).busy = s.busy := rfl
@[simp] theorem State.dropWrite_done : (s.dropWrite).done = s.done := rfl
@[simp] theorem State.dropWrite_ok : (s.dropWrite).ok = s.ok := rfl
@[simp] theorem State.dropWrite_fatal : (s.dropWrite).fatal = s.fatal := rfl
@[simp] theorem State.dropWrite_busyErr : (s.dropWrite).busyErr = true := rfl
@[simp] theorem State.dropWrite_err : (s.dropWrite).err = s.err := rfl
@[simp] theorem State.dropWrite_pend : (s.dropWrite).pend = s.pend := rfl
@[simp] theorem State.dropWrite_base : (s.dropWrite).base = s.base := rfl
@[simp] theorem State.dropWrite_len : (s.dropWrite).len = s.len := rfl
@[simp] theorem State.dropWrite_maxLen : (s.dropWrite).maxLen = s.maxLen := rfl
@[simp] theorem State.dropWrite_crc : (s.dropWrite).crc = s.crc := rfl
@[simp] theorem State.dropWrite_midx : (s.dropWrite).midx = s.midx := rfl
@[simp] theorem State.dropWrite_moff : (s.dropWrite).moff = s.moff := rfl
@[simp] theorem State.dropWrite_drops : (s.dropWrite).drops = s.drops := rfl
@[simp] theorem State.dropWrite_arg : (s.dropWrite).arg = s.arg := rfl
@[simp] theorem State.dropWrite_recd : (s.dropWrite).recd = s.recd := rfl
@[simp] theorem State.dropWrite_qdata : (s.dropWrite).qdata = s.qdata := rfl
@[simp] theorem State.dropWrite_qdlen : (s.dropWrite).qdlen = s.qdlen := rfl
@[simp] theorem State.dropWrite_qhead : (s.dropWrite).qhead = s.qhead := rfl
@[simp] theorem State.dropWrite_qtail : (s.dropWrite).qtail = s.qtail := rfl
@[simp] theorem State.dropWrite_qcap : (s.dropWrite).qcap = s.qcap := rfl
@[simp] theorem State.dropWrite_mem : (s.dropWrite).mem = s.mem := rfl
@[simp] theorem State.dropWrite_order : (s.dropWrite).order = s.order := rfl
@[simp] theorem State.dropWrite_answer : (s.dropWrite).answer = s.answer := rfl
@[simp] theorem State.dropWrite_free : (s.dropWrite).free = s.free := rfl

/-! ### take -/

@[simp] theorem State.take_cfg (es : List Event) : (s.take es).cfg = s.cfg := rfl
@[simp] theorem State.take_alignEn (es : List Event) : (s.take es).alignEn = s.alignEn := rfl
@[simp] theorem State.take_irqEn (es : List Event) : (s.take es).irqEn = s.irqEn := rfl
@[simp] theorem State.take_busy (es : List Event) : (s.take es).busy = s.busy := rfl
@[simp] theorem State.take_done (es : List Event) : (s.take es).done = s.done := rfl
@[simp] theorem State.take_ok (es : List Event) : (s.take es).ok = s.ok := rfl
@[simp] theorem State.take_fatal (es : List Event) : (s.take es).fatal = s.fatal := rfl
@[simp] theorem State.take_busyErr (es : List Event) : (s.take es).busyErr = s.busyErr := rfl
@[simp] theorem State.take_err (es : List Event) : (s.take es).err = s.err := rfl
@[simp] theorem State.take_pend (es : List Event) : (s.take es).pend = s.pend := rfl
@[simp] theorem State.take_base (es : List Event) : (s.take es).base = s.base := rfl
@[simp] theorem State.take_len (es : List Event) : (s.take es).len = s.len := rfl
@[simp] theorem State.take_maxLen (es : List Event) : (s.take es).maxLen = s.maxLen := rfl
@[simp] theorem State.take_crc (es : List Event) : (s.take es).crc = s.crc := rfl
@[simp] theorem State.take_midx (es : List Event) : (s.take es).midx = s.midx := rfl
@[simp] theorem State.take_moff (es : List Event) : (s.take es).moff = s.moff := rfl
@[simp] theorem State.take_drops (es : List Event) : (s.take es).drops = s.drops := rfl
@[simp] theorem State.take_arg (es : List Event) : (s.take es).arg = s.arg := rfl
@[simp] theorem State.take_recd (es : List Event) : (s.take es).recd = s.recd := rfl
@[simp] theorem State.take_qdata (es : List Event) : (s.take es).qdata = s.qdata := rfl
@[simp] theorem State.take_qdlen (es : List Event) : (s.take es).qdlen = s.qdlen := rfl
@[simp] theorem State.take_qhead (es : List Event) : (s.take es).qhead = s.qhead := rfl
@[simp] theorem State.take_qtail (es : List Event) : (s.take es).qtail = s.qtail := rfl
@[simp] theorem State.take_qcap (es : List Event) : (s.take es).qcap = s.qcap := rfl
@[simp] theorem State.take_mem (es : List Event) : (s.take es).mem = s.mem := rfl
@[simp] theorem State.take_order (es : List Event) : (s.take es).order = es := rfl
@[simp] theorem State.take_answer (es : List Event) : (s.take es).answer = none := rfl
@[simp] theorem State.take_free (es : List Event) : (s.take es).free = s.free := rfl

/-! ### answerWith -/

@[simp] theorem State.answerWith_cfg (a : Answer) : (s.answerWith a).cfg = s.cfg := rfl
@[simp] theorem State.answerWith_alignEn (a : Answer) : (s.answerWith a).alignEn = s.alignEn := rfl
@[simp] theorem State.answerWith_irqEn (a : Answer) : (s.answerWith a).irqEn = s.irqEn := rfl
@[simp] theorem State.answerWith_busy (a : Answer) : (s.answerWith a).busy = s.busy := rfl
@[simp] theorem State.answerWith_done (a : Answer) : (s.answerWith a).done = s.done := rfl
@[simp] theorem State.answerWith_ok (a : Answer) : (s.answerWith a).ok = s.ok := rfl
@[simp] theorem State.answerWith_fatal (a : Answer) : (s.answerWith a).fatal = s.fatal := rfl
@[simp] theorem State.answerWith_busyErr (a : Answer) : (s.answerWith a).busyErr = s.busyErr := rfl
@[simp] theorem State.answerWith_err (a : Answer) : (s.answerWith a).err = s.err := rfl
@[simp] theorem State.answerWith_pend (a : Answer) : (s.answerWith a).pend = s.pend := rfl
@[simp] theorem State.answerWith_base (a : Answer) : (s.answerWith a).base = s.base := rfl
@[simp] theorem State.answerWith_len (a : Answer) : (s.answerWith a).len = s.len := rfl
@[simp] theorem State.answerWith_maxLen (a : Answer) : (s.answerWith a).maxLen = s.maxLen := rfl
@[simp] theorem State.answerWith_crc (a : Answer) : (s.answerWith a).crc = s.crc := rfl
@[simp] theorem State.answerWith_midx (a : Answer) : (s.answerWith a).midx = s.midx := rfl
@[simp] theorem State.answerWith_moff (a : Answer) : (s.answerWith a).moff = s.moff := rfl
@[simp] theorem State.answerWith_drops (a : Answer) : (s.answerWith a).drops = s.drops := rfl
@[simp] theorem State.answerWith_arg (a : Answer) : (s.answerWith a).arg = s.arg := rfl
@[simp] theorem State.answerWith_recd (a : Answer) : (s.answerWith a).recd = s.recd := rfl
@[simp] theorem State.answerWith_qdata (a : Answer) : (s.answerWith a).qdata = s.qdata := rfl
@[simp] theorem State.answerWith_qdlen (a : Answer) : (s.answerWith a).qdlen = s.qdlen := rfl
@[simp] theorem State.answerWith_qhead (a : Answer) : (s.answerWith a).qhead = s.qhead := rfl
@[simp] theorem State.answerWith_qtail (a : Answer) : (s.answerWith a).qtail = s.qtail := rfl
@[simp] theorem State.answerWith_qcap (a : Answer) : (s.answerWith a).qcap = s.qcap := rfl
@[simp] theorem State.answerWith_mem (a : Answer) : (s.answerWith a).mem = s.mem := rfl
@[simp] theorem State.answerWith_order (a : Answer) : (s.answerWith a).order = s.order := rfl
@[simp] theorem State.answerWith_answer (a : Answer) : (s.answerWith a).answer = some a := rfl
@[simp] theorem State.answerWith_free (a : Answer) : (s.answerWith a).free = s.free := rfl

/-! ### drawFree -/

@[simp] theorem State.drawFree_cfg (k : Nat) : (s.drawFree k).cfg = s.cfg := rfl
@[simp] theorem State.drawFree_alignEn (k : Nat) : (s.drawFree k).alignEn = s.alignEn := rfl
@[simp] theorem State.drawFree_irqEn (k : Nat) : (s.drawFree k).irqEn = s.irqEn := rfl
@[simp] theorem State.drawFree_busy (k : Nat) : (s.drawFree k).busy = s.busy := rfl
@[simp] theorem State.drawFree_done (k : Nat) : (s.drawFree k).done = s.done := rfl
@[simp] theorem State.drawFree_ok (k : Nat) : (s.drawFree k).ok = s.ok := rfl
@[simp] theorem State.drawFree_fatal (k : Nat) : (s.drawFree k).fatal = s.fatal := rfl
@[simp] theorem State.drawFree_busyErr (k : Nat) : (s.drawFree k).busyErr = s.busyErr := rfl
@[simp] theorem State.drawFree_err (k : Nat) : (s.drawFree k).err = s.err := rfl
@[simp] theorem State.drawFree_pend (k : Nat) : (s.drawFree k).pend = s.pend := rfl
@[simp] theorem State.drawFree_base (k : Nat) : (s.drawFree k).base = s.base := rfl
@[simp] theorem State.drawFree_len (k : Nat) : (s.drawFree k).len = s.len := rfl
@[simp] theorem State.drawFree_maxLen (k : Nat) : (s.drawFree k).maxLen = s.maxLen := rfl
@[simp] theorem State.drawFree_crc (k : Nat) : (s.drawFree k).crc = s.crc := rfl
@[simp] theorem State.drawFree_midx (k : Nat) : (s.drawFree k).midx = s.midx := rfl
@[simp] theorem State.drawFree_moff (k : Nat) : (s.drawFree k).moff = s.moff := rfl
@[simp] theorem State.drawFree_drops (k : Nat) : (s.drawFree k).drops = s.drops := rfl
@[simp] theorem State.drawFree_arg (k : Nat) : (s.drawFree k).arg = s.arg := rfl
@[simp] theorem State.drawFree_recd (k : Nat) : (s.drawFree k).recd = s.recd := rfl
@[simp] theorem State.drawFree_qdata (k : Nat) : (s.drawFree k).qdata = s.qdata := rfl
@[simp] theorem State.drawFree_qdlen (k : Nat) : (s.drawFree k).qdlen = s.qdlen := rfl
@[simp] theorem State.drawFree_qhead (k : Nat) : (s.drawFree k).qhead = s.qhead := rfl
@[simp] theorem State.drawFree_qtail (k : Nat) : (s.drawFree k).qtail = s.qtail := rfl
@[simp] theorem State.drawFree_qcap (k : Nat) : (s.drawFree k).qcap = s.qcap := rfl
@[simp] theorem State.drawFree_mem (k : Nat) : (s.drawFree k).mem = s.mem := rfl
@[simp] theorem State.drawFree_order (k : Nat) : (s.drawFree k).order = s.order := rfl
@[simp] theorem State.drawFree_answer (k : Nat) : (s.drawFree k).answer = s.answer := rfl
@[simp] theorem State.drawFree_free (k : Nat) : (s.drawFree k).free = s.free + k := rfl

/-! ### updates made of setMem: the normal form is setMem -/

@[simp] theorem State.putWindow_eq (out : List Byte) :
    s.putWindow out = s.setMem (s.mem.putList s.base.toNat out) := rfl

@[simp] theorem State.putMemBytes_eq (off m : Nat) :
    s.putMemBytes off m = s.setMem (s.mem.write (off + 4) .four (BitVec.ofNat 32 m)) := rfl

@[simp] theorem State.putHeader_eq (off d m : Nat) :
    s.putHeader off d m =
      s.setMem ((s.mem.write off .four (BitVec.ofNat 32 d)).write (off + 4) .four (BitVec.ofNat 32 m)) := rfl

/-! ### the state after reset -/

@[simp] theorem State.resetOf_cfg (cfg : Config) (mem : Memory) (order : List Event) (free : Nat) :
    (State.resetOf cfg mem order free).cfg = cfg := rfl
@[simp] theorem State.resetOf_alignEn (cfg : Config) (mem : Memory) (order : List Event) (free : Nat) :
    (State.resetOf cfg mem order free).alignEn = true := rfl
@[simp] theorem State.resetOf_irqEn (cfg : Config) (mem : Memory) (order : List Event) (free : Nat) :
    (State.resetOf cfg mem order free).irqEn = false := rfl
@[simp] theorem State.resetOf_busy (cfg : Config) (mem : Memory) (order : List Event) (free : Nat) :
    (State.resetOf cfg mem order free).busy = false := rfl
@[simp] theorem State.resetOf_done (cfg : Config) (mem : Memory) (order : List Event) (free : Nat) :
    (State.resetOf cfg mem order free).done = false := rfl
@[simp] theorem State.resetOf_ok (cfg : Config) (mem : Memory) (order : List Event) (free : Nat) :
    (State.resetOf cfg mem order free).ok = false := rfl
@[simp] theorem State.resetOf_fatal (cfg : Config) (mem : Memory) (order : List Event) (free : Nat) :
    (State.resetOf cfg mem order free).fatal = false := rfl
@[simp] theorem State.resetOf_busyErr (cfg : Config) (mem : Memory) (order : List Event) (free : Nat) :
    (State.resetOf cfg mem order free).busyErr = false := rfl
@[simp] theorem State.resetOf_err (cfg : Config) (mem : Memory) (order : List Event) (free : Nat) :
    (State.resetOf cfg mem order free).err = .noError := rfl
@[simp] theorem State.resetOf_pend (cfg : Config) (mem : Memory) (order : List Event) (free : Nat) :
    (State.resetOf cfg mem order free).pend = 0 := rfl
@[simp] theorem State.resetOf_base (cfg : Config) (mem : Memory) (order : List Event) (free : Nat) :
    (State.resetOf cfg mem order free).base = 0 := rfl
@[simp] theorem State.resetOf_len (cfg : Config) (mem : Memory) (order : List Event) (free : Nat) :
    (State.resetOf cfg mem order free).len = 0 := rfl
@[simp] theorem State.resetOf_maxLen (cfg : Config) (mem : Memory) (order : List Event) (free : Nat) :
    (State.resetOf cfg mem order free).maxLen = 0xFFFFFFFF := rfl
@[simp] theorem State.resetOf_crc (cfg : Config) (mem : Memory) (order : List Event) (free : Nat) :
    (State.resetOf cfg mem order free).crc = 0 := rfl
@[simp] theorem State.resetOf_midx (cfg : Config) (mem : Memory) (order : List Event) (free : Nat) :
    (State.resetOf cfg mem order free).midx = 0 := rfl
@[simp] theorem State.resetOf_moff (cfg : Config) (mem : Memory) (order : List Event) (free : Nat) :
    (State.resetOf cfg mem order free).moff = 0 := rfl
@[simp] theorem State.resetOf_drops (cfg : Config) (mem : Memory) (order : List Event) (free : Nat) :
    (State.resetOf cfg mem order free).drops = 0 := rfl
@[simp] theorem State.resetOf_arg (cfg : Config) (mem : Memory) (order : List Event) (free : Nat) :
    (State.resetOf cfg mem order free).arg = 0 := rfl
@[simp] theorem State.resetOf_recd (cfg : Config) (mem : Memory) (order : List Event) (free : Nat) :
    (State.resetOf cfg mem order free).recd = noneOffset := rfl
@[simp] theorem State.resetOf_qdata (cfg : Config) (mem : Memory) (order : List Event) (free : Nat) :
    (State.resetOf cfg mem order free).qdata = noneOffset := rfl
@[simp] theorem State.resetOf_qdlen (cfg : Config) (mem : Memory) (order : List Event) (free : Nat) :
    (State.resetOf cfg mem order free).qdlen = 0 := rfl
@[simp] theorem State.resetOf_qhead (cfg : Config) (mem : Memory) (order : List Event) (free : Nat) :
    (State.resetOf cfg mem order free).qhead = noneOffset := rfl
@[simp] theorem State.resetOf_qtail (cfg : Config) (mem : Memory) (order : List Event) (free : Nat) :
    (State.resetOf cfg mem order free).qtail = noneOffset := rfl
@[simp] theorem State.resetOf_qcap (cfg : Config) (mem : Memory) (order : List Event) (free : Nat) :
    (State.resetOf cfg mem order free).qcap = 0 := rfl
@[simp] theorem State.resetOf_mem (cfg : Config) (mem : Memory) (order : List Event) (free : Nat) :
    (State.resetOf cfg mem order free).mem = mem := rfl
@[simp] theorem State.resetOf_order (cfg : Config) (mem : Memory) (order : List Event) (free : Nat) :
    (State.resetOf cfg mem order free).order = order := rfl
@[simp] theorem State.resetOf_answer (cfg : Config) (mem : Memory) (order : List Event) (free : Nat) :
    (State.resetOf cfg mem order free).answer = none := rfl
@[simp] theorem State.resetOf_free (cfg : Config) (mem : Memory) (order : List Event) (free : Nat) :
    (State.resetOf cfg mem order free).free = free := rfl

end Sys2Proof.Machine
end

