-- ==== Sys2Proof/Laws/Ops.lean ====
section
/-! SUPPORT. What each shared operation can do, said once: the end of a command, the codec window, the header check,
the placement of a record, the mutations of a reservation. Later proofs cite these instead of unfolding. -/

namespace Sys2Proof.Machine

/-! ## The end of a command -/

@[simp] theorem State.finish_eq (s : State) : s.finish = .next (s.complete .noError) := rfl

@[simp] theorem State.fail_eq (s : State) (e : ErrCode) : s.fail e = .next (s.complete e) := rfl

theorem okAfter_eq_true {e : ErrCode} : okAfter e = true ↔ e = .noError := by cases e <;> decide

theorem fatalAfter_eq_true {f : Bool} {e : ErrCode} : fatalAfter f e = true ↔ f = true ∨ e = .prog := by
  cases f <;> cases e <;> decide

@[simp] theorem fatalAfter_noError (f : Bool) : fatalAfter f .noError = f := by cases f <;> rfl

@[simp] theorem okAfter_noError : okAfter .noError = true := rfl

/-! ## Engine accesses -/

theorem State.withBytes_of_le {s : State} {a n : Nat} (h : a + n ≤ s.cfg.memSize) (k : Result) :
    s.withBytes a n k = k := if_pos h

/-- An engine access goes on only inside `MEM`. -/
theorem State.withBytes_next {s t : State} {a n : Nat} {k : Result} (h : s.withBytes a n k = .next t) :
    a + n ≤ s.cfg.memSize ∧ k = .next t := by
  unfold State.withBytes at h
  split at h
  · exact ⟨‹_›, h⟩
  · cases h

/-! ## The codec window -/

@[simp] theorem State.length_window (s : State) : s.window.length = s.len.toNat :=
  Memory.length_slice _ _ _

theorem State.withWindow_of_fits {s : State} {extra : Nat} (h : s.windowFits extra) (k : List Byte → Result) :
    s.withWindow extra k = k s.window := if_pos h

theorem State.withWindow_of_not_fits {s : State} {extra : Nat} (h : ¬s.windowFits extra) (k : List Byte → Result) :
    s.withWindow extra k = .next (s.complete .bounds) := if_neg h

/-- A codec command runs on its window, or ends with `ERR_BOUNDS`. -/
theorem State.withWindow_next {s t : State} {extra : Nat} {k : List Byte → Result}
    (h : s.withWindow extra k = .next t) :
    (s.windowFits extra ∧ k s.window = .next t) ∨ (¬s.windowFits extra ∧ t = s.complete .bounds) := by
  unfold State.withWindow at h
  split at h
  · exact .inl ⟨‹_›, h⟩
  · simp only [State.fail_eq, Host.Outcome.next.injEq] at h
    exact .inr ⟨‹_›, h.symm⟩

/-! ## The header check -/

theorem State.withHeader_of_ok {s : State} {off : Nat} (h : s.hdrOk off) (hm : s.qcap.toNat ≤ s.cfg.memSize)
    (k : Result) : s.withHeader off k = k := by
  have h8 := h.2.1
  rw [State.withHeader, if_pos ⟨h.1, h.2.1⟩, State.withBytes_of_le (by omega), if_pos h]

theorem State.withHeader_of_bad {s : State} {off : Nat} (h : ¬s.hdrOk off) (hm : s.qcap.toNat ≤ s.cfg.memSize)
    (k : Result) : s.withHeader off k = .next (s.complete .prog) := by
  by_cases ho : off % 4 = 0 ∧ off + hdrBytes ≤ s.qcap.toNat
  · rw [State.withHeader, if_pos ho, State.withBytes_of_le (by omega), if_neg h]
    rfl
  · rw [State.withHeader, if_neg ho]
    rfl

/-- A queue command goes on with a sane header, or ends with `ERR_PROG`. -/
theorem State.withHeader_next {s t : State} {off : Nat} {k : Result} (h : s.withHeader off k = .next t) :
    (s.hdrOk off ∧ off + hdrBytes ≤ s.cfg.memSize ∧ k = .next t) ∨ (¬s.hdrOk off ∧ t = s.complete .prog) := by
  unfold State.withHeader at h
  split at h
  · obtain ⟨hb, h⟩ := State.withBytes_next h
    split at h
    · exact .inl ⟨‹_›, hb, h⟩
    · simp only [State.fail_eq, Host.Outcome.next.injEq] at h
      exact .inr ⟨‹_›, h.symm⟩
  · rename_i hn
    simp only [State.fail_eq, Host.Outcome.next.injEq] at h
    exact .inr ⟨fun hk => hn ⟨hk.1, hk.2.1⟩, h.symm⟩

/-! ## Rounding, fit and placement -/

theorem up4_mod (x : Nat) : up4 x % 4 = 0 := by unfold up4; omega

theorem up4_ge (x : Nat) : x ≤ up4 x := by unfold up4; omega

theorem up4_lt (x : Nat) : up4 x < x + 4 := by unfold up4; omega

theorem dn4_mod (x : Nat) : dn4 x % 4 = 0 := by unfold dn4; omega

theorem dn4_le (x : Nat) : dn4 x ≤ x := by unfold dn4; omega

theorem footprint_ge (n : Nat) : hdrBytes + n ≤ footprint n := up4_ge _

theorem footprint_mod (n : Nat) : footprint n % 4 = 0 := up4_mod _

theorem fits_le {strict : Bool} {f room : Nat} (h : fits strict f room = true) : f ≤ room := by
  cases strict <;> simp [fits] at h <;> omega

/-- Where a placement lies: at the write position in front of the arena end or of the head, or at 0 after the old
tail is padded up to the arena end. -/
theorem place_some {strict : Bool} {f cap rp wp off pad : Nat} (h : place strict f cap rp wp = some (off, pad)) :
    (off = wp ∧ pad = 0 ∧ rp < wp ∧ f ≤ cap - wp) ∨ (off = 0 ∧ pad = cap - wp ∧ rp < wp ∧ f ≤ rp) ∨
      (off = wp ∧ pad = 0 ∧ wp < rp ∧ f ≤ rp - wp) := by
  unfold place at h
  split at h
  · cases h
  · split at h
    · split at h
      · rename_i hf
        simp only [Option.some.injEq, Prod.mk.injEq] at h
        exact .inl ⟨h.1.symm, h.2.symm, ‹_›, fits_le hf⟩
      · split at h
        · rename_i hf
          simp only [Option.some.injEq, Prod.mk.injEq] at h
          exact .inr (.inl ⟨h.1.symm, h.2.symm, ‹_›, fits_le hf⟩)
        · cases h
    · split at h
      · rename_i hf
        simp only [Option.some.injEq, Prod.mk.injEq] at h
        exact .inr (.inr ⟨h.1.symm, h.2.symm, by omega, fits_le hf⟩)
      · cases h

/-! ## Reservation -/

/-- The state a reservation of footprint `f` at `off` leaves. -/
def State.reserved (s : State) (off f : Nat) : State :=
  (((s.putHeader off s.arg.toNat f).setEnds
        (if s.qhead = noneOffset then 0 else s.qhead) (BitVec.ofNat 32 off)).setRec
      (BitVec.ofNat 32 off)).setView (BitVec.ofNat 32 (off + hdrBytes)) s.arg

theorem State.reserveAt_of_le {s : State} {off : Nat} (h : off + hdrBytes ≤ s.cfg.memSize) (f : Nat) :
    s.reserveAt off f = .next ((s.reserved off f).complete .noError) :=
  State.withBytes_of_le h _

theorem State.reserveAt_next {s t : State} {off f : Nat} (h : s.reserveAt off f = .next t) :
    off + hdrBytes ≤ s.cfg.memSize ∧ t = (s.reserved off f).complete .noError := by
  obtain ⟨hb, h⟩ := State.withBytes_next h
  simp only [State.finish_eq, Host.Outcome.next.injEq] at h
  exact ⟨hb, h.symm⟩

@[simp] theorem State.padTail_zero (s : State) : s.padTail 0 = s := rfl

theorem State.padTail_pos (s : State) {pad : Nat} (h : 0 < pad) :
    s.padTail pad = s.putMemBytes s.qtail.toNat (s.memBytes s.qtail.toNat + pad) := if_pos h

/-- Padding the tail writes `MEM` alone. -/
theorem State.padTail_eq_setMem (s : State) (pad : Nat) : ∃ m, s.padTail pad = s.setMem m := by
  unfold State.padTail
  split
  · exact ⟨_, rfl⟩
  · exact ⟨s.mem, rfl⟩

/-! ## The judgement of VALIDATE -/

/-- `VALIDATE` after alignment ends in one of three ways (R182). -/
theorem State.validateAligned_next {s t : State} {data : List Byte} (h : s.validateAligned data = .next t) :
    (data.length < 4 ∧ t = s.bumpDrops.complete .short) ∨
      (4 ≤ data.length ∧ determineLength data (s.scanBound data.length) = .fcsMismatch ∧
        t = s.bumpDrops.complete .fcs) ∨
      ∃ l c, 4 ≤ data.length ∧ determineLength data (s.scanBound data.length) = .ok l c ∧
        t = ((s.setLen (BitVec.ofNat 32 l)).setCrc c).complete .noError := by
  unfold State.validateAligned at h
  split at h
  · simp only [State.fail_eq, Host.Outcome.next.injEq] at h
    exact .inl ⟨‹_›, h.symm⟩
  · rename_i hl
    split at h
    · rename_i hd
      simp only [State.fail_eq, Host.Outcome.next.injEq] at h
      exact .inr (.inl ⟨by omega, hd, h.symm⟩)
    · rename_i l c hd
      simp only [State.finish_eq, Host.Outcome.next.injEq] at h
      exact .inr (.inr ⟨l, c, by omega, hd, h.symm⟩)

end Sys2Proof.Machine
end

