-- ==== Sys2Proof/Laws/Exec.lean ====
section
/-! SUPPORT. What each meaning can do, said once, guards included: the inversion of `exec`, command by command. -/

namespace Sys2Proof.Machine

/-! ## Chains of updates as one record -/

theorem State.bumpDrops_eq (s : State) : s.bumpDrops = { s with drops := s.drops + 1 } := rfl

theorem State.putLocated_eq (s : State) (out : List Byte) (n i j : Nat) :
    s.putLocated out n i j =
      { s with
        mem := s.mem.putList s.base.toNat out
        len := BitVec.ofNat 32 n
        midx := BitVec.ofNat 32 i
        moff := BitVec.ofNat 32 j } := by
  simp only [State.putLocated, State.putWindow, State.setMem, State.setLen, State.setMatch]

theorem State.putLocated_bumpDrops_eq (s : State) (out : List Byte) (n i j : Nat) :
    (s.putLocated out n i j).bumpDrops =
      { s with
        drops := s.drops + 1
        mem := s.mem.putList s.base.toNat out
        len := BitVec.ofNat 32 n
        midx := BitVec.ofNat 32 i
        moff := BitVec.ofNat 32 j } := by
  simp only [State.putLocated_eq, State.bumpDrops]

theorem State.putLocated_setLen_setCrc_eq (s : State) (out : List Byte) (n i j : Nat) (l c : Word) :
    ((s.putLocated out n i j).setLen l).setCrc c =
      { s with
        mem := s.mem.putList s.base.toNat out
        len := l
        crc := c
        midx := BitVec.ofNat 32 i
        moff := BitVec.ofNat 32 j } := by
  simp only [State.putLocated_eq, State.setLen, State.setCrc]

/-- A reservation after the tail has been padded: `MEM` was replaced by `m` first. -/
theorem State.setMem_reserved_eq (s : State) (m : Memory) (off f : Nat) :
    (s.setMem m).reserved off f =
      { s with
        mem := (m.write off .four (BitVec.ofNat 32 s.arg.toNat)).write (off + 4) .four (BitVec.ofNat 32 f)
        qhead := if s.qhead = noneOffset then 0 else s.qhead
        qtail := BitVec.ofNat 32 off
        recd := BitVec.ofNat 32 off
        qdata := BitVec.ofNat 32 (off + hdrBytes)
        qdlen := s.arg } := by
  simp only [State.reserved, State.putHeader, State.setMem, State.setEnds, State.setRec, State.setView]
  by_cases h : s.qhead = noneOffset <;> simp only [h]

theorem State.reserved_eq (s : State) (off f : Nat) :
    s.reserved off f =
      { s with
        mem := (s.mem.write off .four (BitVec.ofNat 32 s.arg.toNat)).write (off + 4) .four (BitVec.ofNat 32 f)
        qhead := if s.qhead = noneOffset then 0 else s.qhead
        qtail := BitVec.ofNat 32 off
        recd := BitVec.ofNat 32 off
        qdata := BitVec.ofNat 32 (off + hdrBytes)
        qdlen := s.arg } :=
  s.setMem_reserved_eq s.mem off f

/-! ## The meanings -/

theorem execNop_next {s t : State} (h : execNop s = .next t) : t = s.complete .noError := by
  simpa [execNop] using h.symm

theorem execCrcinit_next {s t : State} (h : execCrcinit s = .next t) :
    t = (s.setCrc 0x00000000).complete .noError := by
  simpa [execCrcinit] using h.symm

theorem execCrcbyte_next {b : Byte} {s t : State} (h : execCrcbyte b s = .next t) :
    t = (s.setCrc (crcByte s.crc b)).complete .noError := by
  simpa [execCrcbyte] using h.symm

theorem execGenfcs_next {s t : State} (h : execGenfcs s = .next t) :
    (¬s.windowFits 0 ∧ t = s.complete .bounds) ∨
      (s.windowFits 0 ∧ t = (s.setCrc (fcs s.window)).complete .noError) := by
  rcases State.withWindow_next h with ⟨hf, hk⟩ | hb
  · exact .inr ⟨hf, by simpa using hk.symm⟩
  · exact .inl hb

theorem execAppendfcs_next {s t : State} (h : execAppendfcs s = .next t) :
    (¬s.windowFits 4 ∧ t = s.complete .bounds) ∨
      (s.windowFits 4 ∧
        t = (((s.setMem (s.mem.write (s.base.toNat + s.len.toNat) .four (fcs s.window))).setCrc
          (fcs s.window)).setLen (s.len + 4)).complete .noError) := by
  rcases State.withWindow_next h with ⟨hf, hk⟩ | hb
  · exact .inr ⟨hf, by simpa using hk.symm⟩
  · exact .inl hb

theorem execLocate_next {s t : State} (h : execLocate s = .next t) :
    (¬s.windowFits 0 ∧ t = s.complete .bounds) ∨
      (s.windowFits 0 ∧ locateFrame s.window = .framingError ∧ t = s.complete .framing) ∨
      ∃ out n i j, s.windowFits 0 ∧ locateFrame s.window = .ok out n i j ∧
        t = (s.putLocated out n i j).complete .noError := by
  rcases State.withWindow_next h with ⟨hf, hk⟩ | hb
  · split at hk
    · exact .inr (.inl ⟨hf, ‹_›, by simpa using hk.symm⟩)
    · exact .inr (.inr ⟨_, _, _, _, hf, ‹_›, by simpa using hk.symm⟩)
  · exact .inl hb

theorem execDetlen_next {s t : State} (h : execDetlen s = .next t) :
    (¬s.windowFits 0 ∧ t = s.complete .bounds) ∨
      (s.windowFits 0 ∧ determineLength s.window (s.scanBound s.len.toNat) = .fcsMismatch ∧ t = s.complete .fcs) ∨
      ∃ l c, s.windowFits 0 ∧ determineLength s.window (s.scanBound s.len.toNat) = .ok l c ∧
        t = ((s.setLen (BitVec.ofNat 32 l)).setCrc c).complete .noError := by
  rcases State.withWindow_next h with ⟨hf, hk⟩ | hb
  · split at hk
    · exact .inr (.inl ⟨hf, ‹_›, by simpa using hk.symm⟩)
    · exact .inr (.inr ⟨_, _, hf, ‹_›, by simpa using hk.symm⟩)
  · exact .inl hb

/-- The stages of `VALIDATE` after its bounds and alignment: `State.validateAligned_next` says how they end. -/
theorem execValidate_next {s t : State} (h : execValidate s = .next t) :
    (¬s.windowFits 0 ∧ t = s.complete .bounds) ∨
      (s.windowFits 0 ∧ s.alignEn = true ∧ locateFrame s.window = .framingError ∧
        t = s.bumpDrops.complete .framing) ∨
      (∃ out n i j, s.windowFits 0 ∧ s.alignEn = true ∧ locateFrame s.window = .ok out n i j ∧
        (s.putLocated out n i j).validateAligned out = .next t) ∨
      (s.windowFits 0 ∧ s.alignEn = false ∧ s.validateAligned s.window = .next t) := by
  rcases State.withWindow_next h with ⟨hf, hk⟩ | hb
  · split at hk
    · split at hk
      · exact .inr (.inl ⟨hf, ‹_›, ‹_›, by simpa using hk.symm⟩)
      · exact .inr (.inr (.inl ⟨_, _, _, _, hf, ‹_›, ‹_›, hk⟩))
    · rename_i ha
      exact .inr (.inr (.inr ⟨hf, by simpa using ha, hk⟩))
  · exact .inl hb

theorem execQinit_next {s t : State} (h : execQinit s = .next t) :
    ((s.arg.toNat % 4 ≠ 0 ∨ s.cfg.memSize < s.arg.toNat) ∧ t = s.complete .badArg) ∨
      (s.arg.toNat % 4 = 0 ∧ s.arg.toNat ≤ s.cfg.memSize ∧
        t = ((s.setCap s.arg).setEnds noneOffset noneOffset).complete .noError) := by
  unfold execQinit at h
  split at h
  · exact .inl ⟨‹_›, by simpa using h.symm⟩
  · exact .inr ⟨by omega, by omega, by simpa using h.symm⟩

theorem execQreserve_next {s t : State} (h : execQreserve s = .next t) :
    (s.qhead = noneOffset ∧ s.qcap.toNat < footprint s.arg.toNat ∧ t = s.complete .alloc) ∨
      (s.qhead = noneOffset ∧ footprint s.arg.toNat ≤ s.qcap.toNat ∧ hdrBytes ≤ s.cfg.memSize ∧
        t = (s.reserved 0 (footprint s.arg.toNat)).complete .noError) ∨
      (s.qhead ≠ noneOffset ∧ ¬s.hdrOk s.qtail.toNat ∧ t = s.complete .prog) ∨
      (s.qhead ≠ noneOffset ∧ s.hdrOk s.qtail.toNat ∧
        place s.cfg.qStrictFit (footprint s.arg.toNat) s.qcap.toNat s.qhead.toNat s.writePos = none ∧
        t = s.complete .alloc) ∨
      ∃ off pad, s.qhead ≠ noneOffset ∧ s.hdrOk s.qtail.toNat ∧
        place s.cfg.qStrictFit (footprint s.arg.toNat) s.qcap.toNat s.qhead.toNat s.writePos = some (off, pad) ∧
        off + hdrBytes ≤ s.cfg.memSize ∧
        t = ((s.padTail pad).reserved off (footprint s.arg.toNat)).complete .noError := by
  unfold execQreserve at h
  simp only at h
  split at h
  · split at h
    · exact .inl ⟨‹_›, ‹_›, by simpa using h.symm⟩
    · obtain ⟨h8, ht⟩ := State.reserveAt_next h
      exact .inr (.inl ⟨‹_›, by omega, by omega, ht⟩)
  · rcases State.withHeader_next h with ⟨hok, _, hk⟩ | ⟨hbad, ht⟩
    · split at hk
      · exact .inr (.inr (.inr (.inl ⟨‹_›, hok, ‹_›, by simpa using hk.symm⟩)))
      · rename_i off pad hp
        obtain ⟨h8, ht⟩ := State.reserveAt_next hk
        obtain ⟨m, hm⟩ := s.padTail_eq_setMem pad
        refine .inr (.inr (.inr (.inr ⟨off, pad, ‹_›, hok, hp, ?_, ht⟩)))
        simpa [hm] using h8
    · exact .inr (.inr (.inl ⟨‹_›, hbad, ht⟩))

/-- The state a successful `QCOMMIT` of `ARG` bytes leaves (R117). -/
def State.committed (s : State) : State :=
  (s.putHeader s.recd.toNat s.arg.toNat
      (s.memBytes s.recd.toNat - dn4 (s.dataBytes s.recd.toNat - s.arg.toNat))).setView
    (BitVec.ofNat 32 (s.recd.toNat + hdrBytes)) s.arg

theorem State.committed_eq (s : State) :
    s.committed =
      { s with
        mem := (s.mem.write s.recd.toNat .four (BitVec.ofNat 32 s.arg.toNat)).write (s.recd.toNat + 4) .four
          (BitVec.ofNat 32 (s.memBytes s.recd.toNat - dn4 (s.dataBytes s.recd.toNat - s.arg.toNat)))
        qdata := BitVec.ofNat 32 (s.recd.toNat + hdrBytes)
        qdlen := s.arg } := by
  simp only [State.committed, State.putHeader, State.setMem, State.setView]

theorem execQcommit_next {s t : State} (h : execQcommit s = .next t) :
    ((s.qtail = noneOffset ∨ s.recd ≠ s.qtail) ∧ t = s.complete .prog) ∨
      (s.qtail ≠ noneOffset ∧ s.recd = s.qtail ∧ ¬s.hdrOk s.recd.toNat ∧ t = s.complete .prog) ∨
      (s.qtail ≠ noneOffset ∧ s.recd = s.qtail ∧ s.hdrOk s.recd.toNat ∧
        s.dataBytes s.recd.toNat < s.arg.toNat ∧ t = s.complete .prog) ∨
      (s.qtail ≠ noneOffset ∧ s.recd = s.qtail ∧ s.hdrOk s.recd.toNat ∧ s.recd.toNat + hdrBytes ≤ s.cfg.memSize ∧
        s.arg.toNat ≤ s.dataBytes s.recd.toNat ∧ t = s.committed.complete .noError) := by
  unfold execQcommit at h
  simp only at h
  split at h
  · exact .inl ⟨‹_›, by simpa using h.symm⟩
  · rename_i hn
    have hq : s.qtail ≠ noneOffset ∧ s.recd = s.qtail := by simpa using hn
    rcases State.withHeader_next h with ⟨hok, h8, hk⟩ | ⟨hbad, ht⟩
    · split at hk
      · exact .inr (.inr (.inl ⟨hq.1, hq.2, hok, ‹_›, by simpa using hk.symm⟩))
      · exact .inr (.inr (.inr ⟨hq.1, hq.2, hok, h8, by omega, (Host.Outcome.next.inj hk).symm⟩))
    · exact .inr (.inl ⟨hq.1, hq.2, hbad, ht⟩)

theorem execQpeek_next {s t : State} (h : execQpeek s = .next t) :
    (s.qhead = noneOffset ∧ t = ((s.setRec noneOffset).setView noneOffset 0).complete .noError) ∨
      (s.qhead ≠ noneOffset ∧ ¬s.hdrOk s.qhead.toNat ∧ t = s.complete .prog) ∨
      (s.qhead ≠ noneOffset ∧ s.hdrOk s.qhead.toNat ∧
        t = ((s.setRec s.qhead).setView (BitVec.ofNat 32 (s.qhead.toNat + hdrBytes))
          (BitVec.ofNat 32 (s.dataBytes s.qhead.toNat))).complete .noError) := by
  unfold execQpeek at h
  simp only at h
  split at h
  · exact .inl ⟨‹_›, by simpa using h.symm⟩
  · rcases State.withHeader_next h with ⟨hok, _, hk⟩ | ⟨hbad, ht⟩
    · exact .inr (.inr ⟨‹_›, hok, by simpa using hk.symm⟩)
    · exact .inr (.inl ⟨‹_›, hbad, ht⟩)

theorem execQconsume_next {s t : State} (h : execQconsume s = .next t) :
    (s.qhead = noneOffset ∧ t = s.complete .noError) ∨
      (s.qhead ≠ noneOffset ∧ s.qhead = s.qtail ∧ t = (s.setEnds noneOffset noneOffset).complete .noError) ∨
      (s.qhead ≠ noneOffset ∧ s.qhead ≠ s.qtail ∧ ¬s.hdrOk s.qhead.toNat ∧ t = s.complete .prog) ∨
      (s.qhead ≠ noneOffset ∧ s.qhead ≠ s.qtail ∧ s.hdrOk s.qhead.toNat ∧
        t = (s.setEnds (BitVec.ofNat 32 ((s.qhead.toNat + s.memBytes s.qhead.toNat) % s.qcap.toNat))
          s.qtail).complete .noError) := by
  unfold execQconsume at h
  simp only at h
  split at h
  · exact .inl ⟨‹_›, by simpa using h.symm⟩
  · split at h
    · exact .inr (.inl ⟨‹_›, ‹_›, by simpa using h.symm⟩)
    · rcases State.withHeader_next h with ⟨hok, _, hk⟩ | ⟨hbad, ht⟩
      · exact .inr (.inr (.inr ⟨‹_›, ‹_›, hok, by simpa using hk.symm⟩))
      · exact .inr (.inr (.inl ⟨‹_›, ‹_›, hbad, ht⟩))

end Sys2Proof.Machine
end

