-- ==== Sys2Proof/Laws/PerInstr.lean ====
section
/-! SUPPORT. One lemma per command about the fields of its word (30_encoding.md R90, R91, R95): the bits no format
uses are 0, the must-be-zero field of format Z is 0 unless the command is the one of format I, and the queue
commands are those with `op` from 0x10 on. -/

namespace Sys2Proof.Laws.Fields

/-- The word of `i` has 0 in bits 31:16, has 0 in bits 31:8 too unless `i` is `CRCBYTE`, and has an `op` of 0x10 or
more if and only if `i` needs the queue unit. -/
def Statement (i : Instr) : Prop :=
  zeroFieldI (encode i) = 0 ∧ ((∀ b, i ≠ .crcbyte b) → zeroFieldZ (encode i) = 0) ∧
    (i.isQueue = true ↔ 0x10 ≤ (opField (encode i)).toNat)

theorem nop : Statement .nop := ⟨by decide, fun _ => by decide, by decide⟩

theorem locate : Statement .locate := ⟨by decide, fun _ => by decide, by decide⟩

theorem genfcs : Statement .genfcs := ⟨by decide, fun _ => by decide, by decide⟩

theorem detlen : Statement .detlen := ⟨by decide, fun _ => by decide, by decide⟩

theorem validate : Statement .validate := ⟨by decide, fun _ => by decide, by decide⟩

theorem appendfcs : Statement .appendfcs := ⟨by decide, fun _ => by decide, by decide⟩

theorem crcinit : Statement .crcinit := ⟨by decide, fun _ => by decide, by decide⟩

theorem crcbyte (imm8 : Byte) : Statement (.crcbyte imm8) := by
  have hb := imm8.isLt
  have hw : (encode (.crcbyte imm8)).toNat = imm8.toNat * 256 + 7 := encodeI_toNat imm8 7
  refine ⟨(zeroFieldI_eq_zero _).2 (by omega), fun h => absurd rfl (h imm8), ?_⟩
  rw [opField_toNat, hw]
  simp only [Instr.isQueue, Bool.false_eq_true, false_iff]
  omega

theorem qinit : Statement .qinit := ⟨by decide, fun _ => by decide, by decide⟩

theorem qreserve : Statement .qreserve := ⟨by decide, fun _ => by decide, by decide⟩

theorem qcommit : Statement .qcommit := ⟨by decide, fun _ => by decide, by decide⟩

theorem qpeek : Statement .qpeek := ⟨by decide, fun _ => by decide, by decide⟩

theorem qconsume : Statement .qconsume := ⟨by decide, fun _ => by decide, by decide⟩

end Sys2Proof.Laws.Fields
end

