-- ==== Sys2Proof/Laws/Step.lean ====
section
/-! SUPPORT. What a step can do, said once: the inversion of `step`, of the engine turn and its prologue, of a bus
transaction, and of the reset transition. -/

namespace Sys2Proof.Machine

/-! ## The step -/

/-- A step is an engine turn, one transaction, or one reset transition. -/
theorem step_cases {s t : State} (h : step s = .next t) :
    (∃ rest, (s.order = .engine :: rest ∨ s.order = [] ∧ rest = []) ∧ engineTurn (s.take rest) = .next t) ∨
      (∃ tr rest, s.order = .bus tr :: rest ∧ t = (s.take rest).transact tr) ∨
      ∃ rest, s.order = .reset :: rest ∧ t = (s.take rest).resetStep := by
  unfold step at h
  split at h
  · exact .inl ⟨[], .inr ⟨‹_›, rfl⟩, h⟩
  · exact .inl ⟨_, .inl ‹_›, h⟩
  · simp only [Host.Outcome.next.injEq] at h
    exact .inr (.inl ⟨_, _, ‹_›, h.symm⟩)
  · simp only [Host.Outcome.next.injEq] at h
    exact .inr (.inr ⟨_, ‹_›, h.symm⟩)

theorem step_engine {s : State} {rest : List Event} (h : s.order = .engine :: rest ∨ s.order = [] ∧ rest = []) :
    step s = engineTurn (s.take rest) := by
  unfold step
  rcases h with h | ⟨h, rfl⟩ <;> rw [h]

theorem step_bus {s : State} {tr : Transaction} {rest : List Event} (h : s.order = .bus tr :: rest) :
    step s = .next ((s.take rest).transact tr) := by
  unfold step
  rw [h]

theorem step_reset {s : State} {rest : List Event} (h : s.order = .reset :: rest) :
    step s = .next (s.take rest).resetStep := by
  unfold step
  rw [h]

/-- An engine turn does nothing while idle, ends a halted or illegal command, or runs the command. -/
theorem engineTurn_next {s t : State} (h : engineTurn s = .next t) :
    (s.busy = false ∧ t = s) ∨
      (s.busy = true ∧ s.fatal = true ∧ t = s.complete .halted) ∨
      (s.busy = true ∧ s.fatal = false ∧ (∃ c, decode s.cfg.hasRpq s.pend = .illegal c) ∧ t = s.complete .illcmd) ∨
      ∃ i, s.busy = true ∧ s.fatal = false ∧ decode s.cfg.hasRpq s.pend = .instr i ∧ exec i s = .next t := by
  unfold engineTurn at h
  by_cases hb : s.busy = true
  · rw [if_pos hb] at h
    unfold engineStep State.prologue at h
    by_cases hf : s.fatal = true
    · simp only [hf, if_true, Host.Outcome.next.injEq] at h
      exact .inr (.inl ⟨hb, hf, h.symm⟩)
    · have hf : s.fatal = false := by simpa using hf
      cases hd : decode s.cfg.hasRpq s.pend with
      | illegal c =>
        simp only [hf, hd, Bool.false_eq_true, if_false, Host.Outcome.next.injEq] at h
        exact .inr (.inr (.inl ⟨hb, hf, ⟨c, rfl⟩, h.symm⟩))
      | instr i =>
        simp only [hf, hd, Bool.false_eq_true, if_false] at h
        exact .inr (.inr (.inr ⟨i, hb, hf, rfl, h⟩))
  · have hb' : s.busy = false := by simpa using hb
    rw [if_neg hb] at h
    simp only [Host.Outcome.next.injEq] at h
    exact .inl ⟨hb', h.symm⟩

theorem engineTurn_idle {s : State} (h : s.busy = false) : engineTurn s = .next s := by
  simp [engineTurn, h]

theorem engineTurn_halted {s : State} (hb : s.busy = true) (hf : s.fatal = true) :
    engineTurn s = .next (s.complete .halted) := by
  simp [engineTurn, engineStep, State.prologue, hb, hf]

theorem engineTurn_illegal {s : State} {c : IllegalCause} (hb : s.busy = true) (hf : s.fatal = false)
    (hd : decode s.cfg.hasRpq s.pend = .illegal c) : engineTurn s = .next (s.complete .illcmd) := by
  simp [engineTurn, engineStep, State.prologue, hb, hf, hd]

theorem engineTurn_instr {s : State} {i : Instr} (hb : s.busy = true) (hf : s.fatal = false)
    (hd : decode s.cfg.hasRpq s.pend = .instr i) : engineTurn s = exec i s := by
  simp [engineTurn, engineStep, State.prologue, hb, hf, hd]

/-! ## The bus -/

theorem target_of_reg {c : Config} {a : Nat} (h : c.regBase ≤ a ∧ a < c.regBase + 256) :
    target c a = .reg (a - c.regBase) := if_pos h

theorem target_of_mem {c : Config} {a : Nat} (hw : c.wf) (h : c.memBase ≤ a ∧ a < c.memBase + c.memSize) :
    target c a = .mem (a - c.memBase) := by
  have hn : ¬(c.regBase ≤ a ∧ a < c.regBase + 256) := by
    have := hw.2.2.2.2.2
    omega
  exact (if_neg hn).trans (if_pos h)

/-- A register access that is no bus error. -/
theorem State.transact_reg {s : State} {t : Transaction}
    (h : s.cfg.regBase ≤ t.addr ∧ t.addr < s.cfg.regBase + 256) (hs : t.size = .four) (ha : t.addr % 4 = 0) :
    s.transact t =
      match t.op with
      | .read => s.readReg (regAt (t.addr - s.cfg.regBase))
      | .write v => s.writeReg (regAt (t.addr - s.cfg.regBase)) v := by
  rw [State.transact, if_neg (by simp [isBusError, target_of_reg h, hs, ha]), target_of_reg h]
  cases t.op <;> rfl

/-- A `MEM` access that is no bus error. -/
theorem State.transact_mem {s : State} {t : Transaction} (hw : s.cfg.wf)
    (h : s.cfg.memBase ≤ t.addr ∧ t.addr < s.cfg.memBase + s.cfg.memSize) (ha : t.addr % t.size.bytes = 0) :
    s.transact t =
      match t.op with
      | .read => s.readMem (t.addr - s.cfg.memBase) t.size
      | .write v => s.writeMem (t.addr - s.cfg.memBase) t.size v := by
  rw [State.transact, if_neg (by simp [isBusError, target_of_mem hw h, ha]), target_of_mem hw h]
  cases t.op <;> rfl

/-- `regAt` inverts the offsets of R22. -/
theorem offset_of_regAt {o : Nat} {r : RegName} (h : regAt o = some r) : r.offset = o := by
  unfold regAt at h
  split at h <;> first | (simp only [Option.some.injEq] at h; subst h; rfl) | exact nomatch h

/-- A register write is dropped while busy, is the acknowledge, or stores while idle (R101 (a), R67). -/
theorem State.writeReg_cases (s : State) (r : Option RegName) (v : Word) :
    (s.busy = true ∧ s.writeReg r v = s.dropWrite.answerWith .completed) ∨
      (∃ v', s.writeReg r v = (s.ackStatus v').answerWith .completed) ∨
      (s.busy = false ∧ ∃ v' r', s.writeReg r v = (s.storeReg v' r').answerWith .completed) := by
  unfold State.writeReg
  by_cases hb : s.busy = true
  · by_cases hr : r = some .status
    · subst hr
      exact .inr (.inl ⟨v, by simp [State.storeReg]⟩)
    · exact .inl ⟨hb, if_pos (by simp [hb, hr])⟩
  · have hb' : s.busy = false := by simpa using hb
    exact .inr (.inr ⟨hb', v, r, by simp [hb']⟩)

/-- What a transaction leaves alone whatever it is: the results of the codec and the queue, the build, the error
code of a busy unit, the rest of the order. -/
theorem State.transact_cases (s : State) (tr : Transaction) :
    s.transact tr = s ∨ (∃ a, s.transact tr = s.answerWith a) ∨
      (s.busy = true ∧ ∃ n, s.transact tr = s.readFree n) ∨
      (s.busy = true ∧ s.transact tr = s.dropWrite.answerWith .completed) ∨
      (∃ v, s.transact tr = (s.ackStatus v).answerWith .completed) ∨
      (s.busy = false ∧ ∃ v r, s.transact tr = (s.storeReg v r).answerWith .completed) ∨
      (s.busy = false ∧ ∃ a v, target s.cfg tr.addr = .mem a ∧ tr.addr % tr.size.bytes = 0 ∧ tr.op = .write v ∧
        s.transact tr = (s.setMem (s.mem.write a tr.size v)).answerWith .completed) := by
  unfold State.transact
  split
  · exact .inr (.inl ⟨_, rfl⟩)
  · rename_i herr
    split
    · exact .inl rfl
    · unfold State.readReg
      split
      · rename_i h
        simp only [Bool.and_eq_true] at h
        exact .inr (.inr (.inl ⟨h.1, _, rfl⟩))
      · exact .inr (.inl ⟨_, rfl⟩)
    · rcases s.writeReg_cases (regAt _) _ with ⟨hb, he⟩ | ⟨v, he⟩ | ⟨hb, v, r, he⟩
      · exact .inr (.inr (.inr (.inl ⟨hb, he⟩)))
      · exact .inr (.inr (.inr (.inr (.inl ⟨v, he⟩))))
      · exact .inr (.inr (.inr (.inr (.inr (.inl ⟨hb, v, r, he⟩)))))
    · unfold State.readMem
      split
      · exact .inr (.inr (.inl ⟨‹_›, _, rfl⟩))
      · exact .inr (.inl ⟨_, rfl⟩)
    · rename_i a v htgt hop
      unfold State.writeMem
      by_cases hb : s.busy = true
      · rw [if_pos hb]
        exact .inr (.inr (.inr (.inl ⟨hb, rfl⟩)))
      · have hb' : s.busy = false := by simpa using hb
        rw [if_neg hb]
        refine .inr (.inr (.inr (.inr (.inr (.inr ⟨hb', a, v, htgt, ?_, hop, rfl⟩)))))
        have : isBusError s.cfg tr = false := by simpa using herr
        simpa [isBusError, htgt] using this

@[simp] theorem State.readFree_answer (s : State) (n : Size) :
    (s.readFree n).answer = some (.data n (n.low (Config.freeWord s.free))) := rfl

/-! ## Reset -/

theorem State.scramble_spec (s : State) (rs : List (Nat × Nat)) :
    ∃ m k, s.scramble rs = (s.setMem m).drawFree k ∧
      (s.mem.wf = true → m.wf = true ∧
        ∀ x, (∀ r ∈ rs, ¬(r.1 ≤ x ∧ x < r.1 + r.2)) → m.byteAt x = s.mem.byteAt x) ∧
      (s.mem.within s.cfg.memSize = true → m.within s.cfg.memSize = true) := by
  induction rs generalizing s with
  | nil => exact ⟨s.mem, 0, rfl, fun h => ⟨h, fun _ _ => rfl⟩, id⟩
  | cons r rs ih =>
    obtain ⟨a, n⟩ := r
    obtain ⟨m, k, he, hw, hi⟩ :=
      ih ((s.setMem (s.mem.putFree a s.free (clipped s.cfg.memSize a n))).drawFree (clipped s.cfg.memSize a n))
    refine ⟨m, clipped s.cfg.memSize a n + k, ?_, fun h => ?_, fun h => ?_⟩
    · rw [State.scramble]
      simp only [he]
      simp [State.setMem, State.drawFree, Nat.add_assoc]
    · have h1 : (s.mem.putFree a s.free (clipped s.cfg.memSize a n)).wf = true := Memory.wf_putFree h _ _ _
      obtain ⟨hm, hx⟩ := hw h1
      refine ⟨hm, fun x hr => ?_⟩
      have hax := hr (a, n) (List.mem_cons_self ..)
      have hc : clipped s.cfg.memSize a n ≤ n := Nat.min_le_left _ _
      simp only at hax
      rw [hx x fun r hrs => hr r (List.mem_cons_of_mem _ hrs)]
      exact Memory.byteAt_putFree h _ (by omega)
    · refine hi ?_
      by_cases ha : a ≤ s.cfg.memSize
      · exact Memory.within_putFree _ _ h (by unfold clipped; simp only [State.drawFree_cfg, State.setMem_cfg]; omega)
      · have : clipped s.cfg.memSize a n = 0 := by unfold clipped; omega
        simpa [this, Memory.putFree] using h

/-- The reset transition: the registers of R51, the order kept, and a `MEM` that differs at most in the pending
command's write region. -/
theorem State.resetStep_spec (s : State) :
    ∃ m k, s.resetStep = State.resetOf s.cfg m s.order k ∧ (s.busy = false → m = s.mem) ∧
      (s.mem.wf = true → m.wf = true ∧
        ∀ x, (∀ r ∈ s.writeRegion, ¬(r.1 ≤ x ∧ x < r.1 + r.2)) → m.byteAt x = s.mem.byteAt x) ∧
      (s.mem.within s.cfg.memSize = true → m.within s.cfg.memSize = true) := by
  by_cases hb : s.busy = true
  · obtain ⟨m, k, he, hw, hi⟩ := s.scramble_spec s.writeRegion
    refine ⟨m, s.free + k, ?_, fun h => by simp [hb] at h, hw, hi⟩
    simp [State.resetStep, hb, he]
  · refine ⟨s.mem, s.free, ?_, fun _ => rfl, fun h => ⟨h, fun _ _ => rfl⟩, id⟩
    simp [State.resetStep, hb]

end Sys2Proof.Machine
end

