-- ==== Sys2Proof/Tests/Slice0.lean ====
section
/-! SUPPORT. The model's own tests, each about one step on a small state, with results from spec/95_test_vectors.md
(`V-…`) or from the rules named; and, for every obligation with hypotheses, a witness that its hypotheses can be met. -/

namespace Sys2Proof.Tests

open Sys2Proof.Machine Sys2Proof.Claims

/-! ## Helpers -/

/-- The reset state with `bs` at `MEM[a ..)` and the window on them. -/
def loaded (a : Nat) (bs : List Byte) : State :=
  { State.reset with
    mem := Memory.putList [] a bs
    base := BitVec.ofNat 32 a
    len := BitVec.ofNat 32 bs.length }

/-- `s` with the word `w` pending and nothing left in the total order. -/
def pending (s : State) (w : Word) : State := { s with pend := w, busy := true, order := [] }

/-- The next state passes `p`. -/
def passes (r : Result) (p : State → Bool) : Bool :=
  match r with
  | .next t => p t
  | .fault _ => false
  | .refused _ => false

/-- `STATUS` and `LEN` after a codec command, and the first bytes of `MEM`. -/
def codec (status len : Word) (bs : List Byte) (t : State) : Bool :=
  t.statusWord == status && t.len == len && t.mem.slice 0 bs.length == bs

/-- The queue of V-Q2 to V-Q9: 64 bytes of `MEM`, all of it the arena, with these ends, `ARG`, `REC` and records
(offset, `dataBytes`, `memBytes`). -/
def queue (head tail arg recd : Word) (recs : List (Nat × Nat × Nat)) : State :=
  { State.reset with
    cfg := { Config.default with memSize := 64 }
    qcap := 64
    qhead := head
    qtail := tail
    arg := arg
    recd := recd
    mem := recs.foldl
      (fun m r => (m.write r.1 .four (BitVec.ofNat 32 r.2.1)).write (r.1 + 4) .four (BitVec.ofNat 32 r.2.2)) [] }

/-- `STATUS`, `REC`, `QDATA`, `QDLEN`, `QHEAD`, `QTAIL` after a queue command. -/
def queueRegs (status r d n h tl : Word) (t : State) : Bool :=
  t.statusWord == status && t.recd == r && t.qdata == d && t.qdlen == n && t.qhead == h && t.qtail == tl

/-- `s` with this transaction next. -/
def access (s : State) (addr : Nat) (n : Size) (op : BusOp) : State := { s with order := [.bus ⟨addr, n, op⟩] }

/-! ## Ill-formed commands (R95 (c)) -/

theorem test_wf_refuses_queue_without_unit :
    Instr.wf false .qinit = false ∧ Instr.wf false .qreserve = false ∧ Instr.wf false .qcommit = false ∧
      Instr.wf false .qpeek = false ∧ Instr.wf false .qconsume = false := by decide

theorem test_wf_accepts : Instr.wf true .qinit = true ∧ Instr.wf false .validate = true ∧
    Instr.wf false (.crcbyte 0xFF) = true := by decide

/-! ## Decoding (R91, R93, R95): the words written out from the table -/

theorem test_decode_system : decode true 0b00000000000000000000000000000000 = .instr .nop := by decide

theorem test_decode_align : decode true 0b00000000000000000000000000000001 = .instr .locate := by decide

theorem test_decode_crc :
    decode false 0b00000000000000000000000000000010 = .instr .genfcs ∧
      decode false 0b00000000000000000000000000000101 = .instr .appendfcs ∧
      decode false 0b00000000000000000000000000000110 = .instr .crcinit ∧
      decode false 0b00000000000000000011000100000111 = .instr (.crcbyte 0x31) ∧
      decode false 0b00000000000000001111111100000111 = .instr (.crcbyte 0xFF) := by decide

theorem test_decode_framelen :
    decode false 0b00000000000000000000000000000011 = .instr .detlen ∧
      decode false 0b00000000000000000000000000000100 = .instr .validate := by decide

theorem test_decode_queue :
    decode true 0b00000000000000000000000000010000 = .instr .qinit ∧
      decode true 0b00000000000000000000000000010001 = .instr .qreserve ∧
      decode true 0b00000000000000000000000000010010 = .instr .qcommit ∧
      decode true 0b00000000000000000000000000010011 = .instr .qpeek ∧
      decode true 0b00000000000000000000000000010100 = .instr .qconsume := by decide

/-- V-S1, V-Q10. -/
theorem test_decode_illegal :
    (decode true 0x00000008 = .illegal .unknownOp ∧ decode true 0x0000000F = .illegal .unknownOp ∧
      decode true 0x00000015 = .illegal .unknownOp ∧ decode true 0x000000FF = .illegal .unknownOp) ∧
      (decode true 0x00000100 = .illegal .nonzeroField ∧ decode true 0x80000000 = .illegal .nonzeroField ∧
        decode true 0x00000110 = .illegal .nonzeroField ∧ decode true 0x00010007 = .illegal .nonzeroField ∧
        decode true 0x01000007 = .illegal .nonzeroField) ∧
      decode false 0x00000010 = .illegal .noQueueUnit ∧ decode false 0x00000014 = .illegal .noQueueUnit := by decide

theorem test_decodeTableWord :
    decodeTableWord 32 0x3107 = some (.crcbyte 0x31) ∧ decodeTableWord 32 0x14 = some .qconsume ∧
      decodeTableWord 32 0x100 = none := by decide

/-- The very next step after `withFetchWord` runs the word. -/
theorem test_withFetchWord :
    passes (step (State.reset.withFetchWord 32 0xFF07)) (fun t => t.statusWord == 6 && t.crc == 0xFF000000) = true ∧
      passes (step (State.reset.withFetchWord 32 0x0000)) (fun t => t.statusWord == 6) = true ∧
      passes (step (State.reset.withFetchWord 32 0x0008)) (fun t => t.statusWord == 0x62) = true := by decide

/-! ## The commands -/

/-- R195. -/
theorem test_nop : passes (exec .nop State.reset) (fun t => t.statusWord == 6) = true := by decide

/-- V-A2. -/
theorem test_locate_realigns :
    passes (exec .locate (loaded 0 [0x54, 0x55, 0x55, 0x55, 0xAF, 0x36, 0x03]))
      (fun t => codec 6 2 [0xAB, 0xCD, 0x55, 0x55, 0xAF, 0x36, 0x03] t && t.midx == 4 && t.moff == 2) = true := by
  decide

/-- V-A6. -/
theorem test_locate_odd_phase :
    passes (exec .locate (loaded 0 [0xA8, 0xAA, 0xAA, 0xAA, 0x5E, 0x6D, 0x06]))
      (codec 0x12 7 [0xA8, 0xAA, 0xAA, 0xAA, 0x5E, 0x6D, 0x06]) = true := by decide

/-- V-C1. -/
theorem test_genfcs_check_value :
    passes (exec .genfcs (loaded 0 [0x31, 0x32, 0x33, 0x34, 0x35, 0x36, 0x37, 0x38, 0x39]))
      (fun t => t.crc == 0xCBF43926 && t.statusWord == 6 && t.len == 9) = true := by decide

/-- V-C6: the sum is not taken modulo 2^32. -/
theorem test_genfcs_bounds :
    passes (exec .genfcs { State.reset with base := 0xFFFFFFFF, len := 2, crc := 5 })
      (fun t => t.statusWord == 0x72 && t.crc == 5) = true := by decide

/-- V-C7 (c). -/
theorem test_appendfcs_at_the_end :
    passes (exec .appendfcs (loaded 4089 [0x01, 0x02, 0x03]))
      (fun t => t.mem.slice 4089 7 == [0x01, 0x02, 0x03, 0x1D, 0x80, 0xBC, 0x55] && t.len == 7 &&
        t.crc == 0x55BC801D) = true := by decide

/-- V-C7 (d). -/
theorem test_appendfcs_bounds :
    passes (exec .appendfcs (loaded 4090 [0x01, 0x02, 0x03]))
      (fun t => t.statusWord == 0x72 && t.len == 3 && t.mem.slice 4093 3 == [0, 0, 0]) = true := by decide

/-- V-C8 (d). -/
theorem test_crcinit :
    passes (exec .crcinit { State.reset with crc := 0x12345678 }) (fun t => t.crc == 0 && t.statusWord == 6) = true := by
  decide

/-- V-C3: the first and the last byte. -/
theorem test_crcbyte :
    passes (exec (.crcbyte 0x31) State.reset) (fun t => t.crc == 0x83DCEFB7) = true ∧
      passes (exec (.crcbyte 0x39) { State.reset with crc := 0x9AE0DAAF }) (fun t => t.crc == 0xCBF43926) = true := by
  decide

/-- V-F12: the shorter self-matching prefix. -/
theorem test_detlen_first_match :
    passes (exec .detlen (loaded 0 [0xAB, 0xED, 0x95, 0x06, 0x93, 0x10, 0x20, 0x3A, 0x93, 0x6E, 0xC0]))
      (fun t => t.statusWord == 6 && t.len == 1 && t.crc == 0x930695ED) = true := by decide

/-- V-F2, V-F2b: the cap is inclusive. -/
theorem test_detlen_cap :
    passes (exec .detlen { loaded 0 [0x00, 0x8D, 0xEF, 0x02, 0xD2] with maxLen := 4 })
      (fun t => t.statusWord == 0x22 && t.len == 5) = true ∧
      passes (exec .detlen { loaded 0 [0x00, 0x8D, 0xEF, 0x02, 0xD2] with maxLen := 5 })
        (fun t => t.statusWord == 6 && t.len == 1) = true := by decide

/-- V-F17. -/
theorem test_validate_success :
    passes (exec .validate (loaded 0 [0x54, 0x55, 0x55, 0x55, 0xAF, 0xB6, 0x57, 0x1A, 0x4C, 0xDE, 0x21, 0x02]))
      (fun t => codec 6 1 [0xAB, 0xED, 0x95, 0x06, 0x93, 0x77, 0x88, 0x1A, 0x4C, 0xDE, 0x21, 0x02] t &&
        t.crc == 0x930695ED && t.midx == 4 && t.moff == 2 && t.drops == 0) = true := by decide

/-- V-F16. -/
theorem test_validate_fcs :
    passes (exec .validate (loaded 0 [0x55, 0x55, 0x55, 0xD5, 0x01, 0x02, 0x03, 0x04, 0x05, 0x06, 0x07, 0x08]))
      (fun t => codec 0x22 8 [0x01, 0x02, 0x03, 0x04, 0x05, 0x06, 0x07, 0x08, 0x05, 0x06, 0x07, 0x08] t &&
        t.midx == 4 && t.drops == 1) = true := by decide

/-- V-Q1. -/
theorem test_qinit :
    passes (exec .qinit { State.reset with arg := 4096 }) (fun t => t.qcap == 4096 && t.statusWord == 6) = true ∧
      passes (exec .qinit { State.reset with arg := 4100 }) (fun t => t.qcap == 0 && t.statusWord == 0x82) = true ∧
      passes (exec .qinit { State.reset with arg := 4094 }) (fun t => t.qcap == 0 && t.statusWord == 0x82) = true := by
  decide

/-- V-Q5 (a): pad and wrap. -/
theorem test_qreserve_wraps :
    passes (exec .qreserve (queue 32 32 20 noneOffset [(32, 8, 16)]))
      (fun t => queueRegs 6 0 8 20 32 0 t && t.mem.slice 0 8 == [0x14, 0, 0, 0, 0x1C, 0, 0, 0] &&
        t.mem.slice 32 8 == [0x08, 0, 0, 0, 0x20, 0, 0, 0]) = true := by decide

/-- V-Q5 (b), `Q_STRICT_FIT = 1`: no partial mutation. -/
theorem test_qreserve_strict :
    passes (exec .qreserve
        { queue 32 32 24 noneOffset [(32, 8, 16)] with
          cfg := { Config.default with memSize := 64, qStrictFit := true } })
      (fun t => t.statusWord == 0x42 && t.qtail == 32 &&
        t.mem.slice 32 8 == [0x08, 0, 0, 0, 0x10, 0, 0, 0]) = true := by decide

/-- V-Q6, rows 1 and 3. -/
theorem test_qcommit_shrinks :
    passes (exec .qcommit (queue 0 0 9 0 [(0, 10, 20)]))
      (fun t => t.mem.slice 0 8 == [0x09, 0, 0, 0, 0x14, 0, 0, 0] && t.qdlen == 9) = true ∧
      passes (exec .qcommit (queue 0 0 4 0 [(0, 9, 20)]))
        (fun t => t.mem.slice 0 8 == [0x04, 0, 0, 0, 0x10, 0, 0, 0] && t.qdlen == 4) = true := by decide

/-- V-Q6, the last row. -/
theorem test_qcommit_refuses_growth :
    passes (exec .qcommit (queue 0 0 1 0 [(0, 0, 12)]))
      (fun t => t.statusWord == 0x5A && t.mem.slice 0 8 == [0, 0, 0, 0, 0x0C, 0, 0, 0]) = true := by decide

/-- V-Q8. -/
theorem test_qpeek :
    passes (exec .qpeek (queue 0 0 0 5 [(0, 8, 16)])) (queueRegs 6 0 8 8 0 0) = true ∧
      passes (exec .qpeek (queue noneOffset noneOffset 0 5 []))
        (queueRegs 6 noneOffset noneOffset 0 noneOffset noneOffset) = true := by decide

/-- V-Q9 (a). -/
theorem test_qpeek_corrupt_header :
    passes (exec .qpeek (queue 0 0 0 5 [(0, 8, 17)])) (fun t => t.statusWord == 0x5A && t.recd == 5) = true := by
  decide

/-- V-Q8 and V-Q5: the last record, and the wrap of `QHEAD`. -/
theorem test_qconsume :
    passes (exec .qconsume (queue 0 0 0 0 [(0, 8, 16)]))
      (fun t => t.qhead == noneOffset && t.qtail == noneOffset) = true ∧
      passes (exec .qconsume (queue 48 0 0 0 [(48, 8, 16), (0, 8, 16)]))
        (fun t => t.qhead == 0 && t.qtail == 0 && t.statusWord == 6) = true := by decide

/-! ## The bus, the interrupt, reset -/

/-- V-S2: a dropped write, and the acknowledge that is not dropped. -/
theorem test_busy_writes :
    passes (step (access (pending State.reset 2) 0x10 .four (.write 0x20)))
      (fun t => t.statusWord == 0x101 && t.base == 0 && t.answer == some .completed) = true ∧
      passes (step (access { pending State.reset 2 with busyErr := true } 0x08 .four (.write 0x100)))
        (fun t => t.statusWord == 0x001) = true := by decide

/-- V-S4, V-S6. -/
theorem test_idle_accesses :
    passes (step (access State.reset 0x04 .four (.write 0xFFFFFFFF))) (fun t => t.ctrlWord == 3) = true ∧
      passes (step (access State.reset 0x44 .four (.write 64))) (fun t => t.qcap == 0 && !t.busyErr) = true ∧
      passes (step (access State.reset 0x00 .four .read)) (fun t => t.answer == some (.data .four 0x46431001)) = true ∧
      passes (step (access State.reset 0x1002 .four .read)) (fun t => t.answer == some .busError) = true ∧
      passes (step (access State.reset 0x0E .four (.write 0))) (fun t => t.answer == some .busError) = true := by
  decide

/-- R68: little-endian, 2 bytes. -/
theorem test_mem_accesses :
    passes (step (access State.reset 0x1002 .two (.write 0xAABBCCDD))) (fun t => t.mem == [(2, 0xDD), (3, 0xCC)]) = true ∧
      passes (step (access (loaded 2 [0xDD, 0xCC]) 0x1000 .four .read))
        (fun t => t.answer == some (.data .four 0xCCDD0000)) = true := by decide

/-- V-S3. -/
theorem test_interrupt :
    passes (step (pending { State.reset with irqEn := true } 0)) (fun t => t.irq && t.statusWord == 6) = true ∧
      passes (step (access { State.reset with irqEn := true, done := true } 0x08 .four (.write 2)))
        (fun t => !t.irq) = true := by decide

/-- V-S5 (P5): `ERR_HALTED` before `ERR_ILLCMD`. -/
theorem test_halted : passes (step (pending { State.reset with fatal := true } 8)) (fun t => t.statusWord == 0x9A) = true := by
  decide

/-- V-S7. -/
theorem test_reset :
    passes (step { loaded 4 [1, 2] with fatal := true, done := true, order := [.reset] })
      (fun t => t == State.resetOf Config.default [(4, 1), (5, 2)] [] 0) = true ∧
      (State.reset.statusWord = 0 ∧ State.reset.ctrlWord = 1 ∧ State.reset.maxLen = 0xFFFFFFFF) := by decide

/-! ## Witnesses: the hypotheses of each obligation can be met, each clause at a boundary of its range -/

theorem due_pending (s : State) (w : Word) : EngineDue (pending s w) [] := ⟨.inr ⟨rfl, rfl⟩, rfl⟩

/-- A build without the queue unit. -/
def plain : State := { State.reset with cfg := { Config.default with hasRpq := false } }

theorem witness_IllegalWordsEndWithIllcmd :
    (pending State.reset 0x15).fatal = false ∧ IllegalWord true 0x15 ∧ IllegalWord true 0x100 ∧
      IllegalWord true 0x10007 ∧ IllegalWord false 0x10 ∧ IllegalWord false 0x14 ∧ ¬IllegalWord true 0x10 ∧
      ¬IllegalWord true 0x14 ∧ ¬IllegalWord false 0xFF07 := by
  unfold IllegalWord
  and_intros <;> decide

theorem witness_StepRunsTheDecodedCommand :
    EngineDue (pending { State.reset with fatal := true } 0) [] ∧
      (EngineDue (pending State.reset 0x15) [] ∧ decode true 0x15 = .illegal .unknownOp) ∧
      EngineDue (pending State.reset 0x14) [] ∧ decode true 0x14 = .instr .qconsume :=
  ⟨due_pending _ _, ⟨due_pending _ _, by decide⟩, due_pending _ _, by decide⟩

theorem witness_IdleEngineEventChangesNothing :
    ({ State.reset with order := [.engine] }.order = .engine :: [] ∧ State.reset.busy = false) ∧
      State.reset.order = [] := by decide

theorem witness_AcceptedCmdWrite :
    State.reset.cfg.wf ∧ State.reset.busy = false ∧
      (access State.reset 0x0C .four (.write 0xFFFFFFFF)).order =
        .bus ⟨State.reset.cfg.regBase + 0x0C, .four, .write 0xFFFFFFFF⟩ :: [] := by decide

/-- One state per clause of `AccessesWhileBusy`: `MEM` and register writes, the acknowledge, a reserved offset and
`CMD`, the first and the last data register, the last byte of `MEM`. -/
theorem witness_AccessesWhileBusy :
    (pending State.reset 2).Inv ∧ (pending State.reset 2).busy = true ∧
      (InMem State.reset.cfg 0x1FFF ∧ 0x1FFF % Size.one.bytes = 0) ∧
      (InBlock State.reset.cfg 0xFC ∧ 0xFC % 4 = 0 ∧ 0xFC ≠ State.reset.cfg.regBase + 0x08) ∧
      (InBlock State.reset.cfg 0x0C ∧ ¬IsDataOffset (0x0C - State.reset.cfg.regBase)) ∧
      (InBlock State.reset.cfg 0x48 ∧ ¬IsDataOffset (0x48 - State.reset.cfg.regBase)) ∧
      (InBlock State.reset.cfg 0x10 ∧ IsDataOffset (0x10 - State.reset.cfg.regBase)) ∧
      (InBlock State.reset.cfg 0x44 ∧ IsDataOffset (0x44 - State.reset.cfg.regBase)) ∧
      State.reset.busyErr = false := by
  unfold InMem InBlock IsDataOffset
  and_intros <;> decide

theorem witness_PendingCommandKeepsItsOperands :
    (access (pending State.reset 2) 0x10 .four (.write 5)).Inv ∧
      (access (pending State.reset 2) 0x10 .four (.write 5)).busy = true := by decide

/-- `RUN NOP` with one poll before the engine step. -/
theorem witness_RunScriptRunsTheCommand :
    State.reset.cfg.wf ∧ State.reset.busy = false ∧ State.reset.fatal = false ∧ Instr.nop.wf true = true ∧
      ({ State.reset with order := ScriptLine.events State.reset.cfg (.run (encode .nop) 1) } : State).order =
        ScriptLine.events State.reset.cfg (.run (encode .nop) 1) ++ [] ∧
      passes (exec .nop { State.reset with
        pend := encode .nop
        busy := true
        order := rdEvent State.reset.cfg .status :: [] }) (fun _ => true) = true := by decide

theorem witness_PendingCommandEnds : (pending State.reset 0).Inv ∧ (pending State.reset 0).busy = true := by decide

theorem witness_BusErrorsChangeNothing :
    State.reset.cfg.wf ∧ (InBlock State.reset.cfg 0 ∧ Size.one ≠ Size.four) ∧
      (InBlock State.reset.cfg 0x0E ∧ 0x0E % 4 ≠ 0) ∧ (InMem State.reset.cfg 0x1001 ∧ 0x1001 % Size.two.bytes ≠ 0) ∧
      InMem State.reset.cfg 0x1FFE ∧ 0x1FFE % Size.four.bytes ≠ 0 := by
  unfold InBlock InMem
  and_intros <;> decide

theorem witness_ForeignTransactionsChangeNothing :
    ¬InBlock State.reset.cfg 0x100 ∧ ¬InMem State.reset.cfg 0xFFF ∧ ¬InBlock State.reset.cfg 0x2000 ∧
      ¬InMem State.reset.cfg 0x2000 := by
  unfold InBlock InMem
  and_intros <;> decide

theorem witness_IdleRegisterAccesses :
    State.reset.cfg.wf ∧ State.reset.busy = false ∧ 0xFC < 256 ∧ 0xFC % 4 = 0 ∧ 0xFC ≠ 0x0C ∧
      (access State.reset 0x00 .four .read).order = .bus ⟨State.reset.cfg.regBase + 0x00, .four, .read⟩ :: [] ∧
      (access State.reset 0xFC .four .read).order = .bus ⟨State.reset.cfg.regBase + 0xFC, .four, .read⟩ :: [] ∧
      (access State.reset 0xFC .four (.write 1)).order =
        .bus ⟨State.reset.cfg.regBase + 0xFC, .four, .write 1⟩ :: [] := by decide

theorem witness_IdleMemAccesses :
    State.reset.Inv ∧ State.reset.busy = false ∧ (4095 < State.reset.cfg.memSize ∧ 4095 % Size.one.bytes = 0) ∧
      (4092 < State.reset.cfg.memSize ∧ 4092 % Size.four.bytes = 0) ∧
      (access State.reset 0x1FFC .four (.write 1)).order =
        .bus ⟨State.reset.cfg.memBase + 4092, .four, .write 1⟩ :: [] := by decide

theorem witness_ResetValues :
    ({ State.reset with order := [.reset], fatal := true, busy := true } : State).order = .reset :: [] := by decide

/-- A pending `LOCATE` on `MEM[0 .. 4)` may write bytes 0 to 3, and not byte 4. -/
theorem witness_ResetWhileBusyKeepsOtherBytes :
    (pending (loaded 0 [1, 2, 3, 4]) 1).Inv ∧ MayWrite (pending (loaded 0 [1, 2, 3, 4]) 1) 3 ∧
      ¬MayWrite (pending (loaded 0 [1, 2, 3, 4]) 1) 4 := by
  unfold MayWrite
  and_intros <;> decide

theorem witness_ResetMeetsInv :
    Config.default.wf ∧ Memory.wf [(4095, 1)] = true ∧ Memory.within [(4095, 1)] Config.default.memSize = true := by
  decide

theorem witness_EveryStepKeepsInv : State.reset.Inv ∧ (pending State.reset 0x11).Inv :=
  ⟨by decide, by decide⟩

/-- The interrupt is lowered by the acknowledge, an accepted `CMD` write, clearing `IRQ_EN`, and reset. -/
theorem witness_InterruptLevel :
    ({ State.reset with irqEn := true, done := true } : State).irq = true ∧
      passes (step (access { State.reset with irqEn := true, done := true } 0x08 .four (.write 2)))
        (fun t => t.irq == false) = true ∧
      passes (step (access { State.reset with irqEn := true, done := true } 0x0C .four (.write 0)))
        (fun t => t.irq == false) = true ∧
      passes (step (access { State.reset with irqEn := true, done := true } 0x04 .four (.write 1)))
        (fun t => t.irq == false) = true ∧
      passes (step { State.reset with irqEn := true, done := true, order := [.reset] }) (fun t => t.irq == false) =
        true ∧
      passes (step (pending State.reset 0)) (fun _ => true) = true := by decide

/-- One byte changes by a host write, one by a command. -/
theorem witness_MemBytesPersist :
    State.reset.Inv ∧
      passes (step (access State.reset 0x1000 .one (.write 7))) (fun t => t.mem.byteAt 0 != State.reset.mem.byteAt 0) =
        true ∧
      passes (step (pending (loaded 0 [1]) 5)) (fun t => t.mem.byteAt 1 != (loaded 0 [1]).mem.byteAt 1) = true := by
  decide

theorem witness_FatalErrorHaltsUntilReset :
    passes (step { State.reset with fatal := true, order := [.reset] }) (fun t => t.fatal == false) = true ∧
      EngineDue (pending { State.reset with fatal := true } 0) [] ∧
      (access State.reset 0 .four .read).order = .bus ⟨0, .four, .read⟩ :: [] ∧
      passes (exec .qcommit State.reset) (fun t => t.err == .prog) = true :=
  ⟨by decide, due_pending _ _, by decide, by decide⟩

theorem witness_FailingCommandsLeaveTheRest :
    EngineDue (pending State.reset 8) [] ∧
      passes (step (pending State.reset 8)) (fun t => t.err == .illcmd) = true ∧
      passes (exec .genfcs { State.reset with len := 4097 }) (fun t => t.err == .bounds) = true ∧
      passes (exec .locate State.reset) (fun t => t.err == .framing) = true ∧
      passes (exec .validate State.reset) (fun t => t.err == .framing) = true ∧
      passes (exec .validate { loaded 0 [1, 2, 3] with alignEn := false }) (fun t => t.err == .short) = true ∧
      passes (exec .validate (loaded 0 [0x55, 0x55, 0x55, 0xD5, 1, 2, 3])) (fun t => t.err == .short) = true ∧
      (loaded 0 [0x55, 0x55, 0x55, 0xD5, 1, 2, 3]).Inv :=
  ⟨due_pending _ _, by decide, by decide, by decide, by decide, by decide, by decide, by decide⟩

theorem witness_ErrorCodesRaised :
    passes (exec .nop State.reset) (fun _ => true) = true ∧ EngineDue (pending State.reset 8) [] ∧
      passes (step (pending State.reset 8)) (fun t => t.err == .illcmd) = true ∧
      passes (step (pending { State.reset with fatal := true } 8)) (fun t => t.err == .halted) = true :=
  ⟨by decide, due_pending _ _, by decide, by decide⟩

theorem witness_CommandsLeaveOtherRegisters :
    passes (exec .nop State.reset) (fun t => t.err == .noError) = true ∧
      passes (exec .validate State.reset) (fun t => t.err != .noError) = true ∧
      passes (exec .locate State.reset) (fun t => t.err != .noError) = true ∧
      passes (exec .qreserve State.reset) (fun t => t.err != .noError) = true ∧
      passes (exec .qcommit State.reset) (fun t => t.err != .noError) = true ∧
      passes (exec .qinit { State.reset with arg := 2 }) (fun t => t.err != .noError) = true := by decide

theorem witness_BuildWithoutQueueUnit :
    plain.Inv ∧ plain.cfg.hasRpq = false ∧ passes (step plain) (fun _ => true) = true ∧
      EngineDue (pending plain 0x10) [] ∧ (pending plain 0x10).fatal = false ∧ Instr.qinit.isQueue = true ∧
      (pending plain 0x10).pend = encode .qinit ∧ Instr.qconsume.isQueue = true ∧
      (pending plain 0x14).pend = encode .qconsume :=
  ⟨by decide, by decide, by decide, due_pending _ _, by decide, by decide, by decide, by decide, by decide⟩

theorem witness_DropsCountsFailedValidates :
    EngineDue (pending State.reset 4) [] ∧ passes (step (pending State.reset 4)) (fun t => t.drops == 1) = true ∧
      passes (step (pending State.reset 3)) (fun t => t.drops == 0 && t.err == .fcs) = true :=
  ⟨due_pending _ _, by decide, by decide⟩

/-- The window may end at `MEM_SIZE`, and not one byte later. -/
theorem witness_GenfcsComputesTheWindowFcs :
    Fits { State.reset with base := 4095, len := 1 } 0 ∧ ¬Fits { State.reset with base := 4095, len := 2 } 0 := by
  unfold Fits
  and_intros <;> decide

theorem witness_AppendfcsAppendsTheFcs :
    State.reset.Inv ∧ Fits { State.reset with base := 4091, len := 1 } 4 ∧
      ¬Fits { State.reset with base := 4091, len := 2 } 4 := by
  unfold Fits
  and_intros <;> decide

theorem witness_StreamingCrcEqualsOneShot : Fits State.reset 0 := by
  unfold Fits
  decide

/-- V-A1: the pattern ends at bit 32, with `n = 2`, `i = 4`, `j = 0`. -/
theorem witness_LocateFindsTheFirstPattern :
    locateFrame [0x55, 0x55, 0x55, 0xD5, 0xAB, 0xCD] = .ok [0xAB, 0xCD] 2 4 0 ∧
      PatternBefore [0x55, 0x55, 0x55, 0xD5, 0xAB, 0xCD] 32 := by
  unfold PatternBefore
  and_intros <;> decide

/-- V-A7: the pattern is the end of the capture. -/
theorem witness_LocateResultBounds :
    locateFrame [0x55, 0x55, 0x55, 0xD5] = .ok [] 0 4 0 ∧ 8 * 4 + 0 = 8 * [0x55, 0x55, 0x55, (0xD5 : Byte)].length := by
  decide

theorem witness_EvenDelaysAreUndone :
    3 ≤ 3 ∧ 6 ∈ [0, 2, 4, 6] ∧ locateFrame (delay (preamble 3 ++ [0xAB, 0xCD]) 6) = .ok [0xAB, 0xCD] 2 4 6 := by decide

theorem witness_LocateRealignsInPlace :
    (loaded 0 [0x55, 0x55, 0x55, 0xD5, 0x07]).Inv ∧ Fits (loaded 0 [0x55, 0x55, 0x55, 0xD5, 0x07]) 0 ∧
      locateFrame (windowBytes (loaded 0 [0x55, 0x55, 0x55, 0xD5, 0x07])) = .ok [0x07] 1 4 0 ∧
      ¬Fits { State.reset with len := 4097 } 0 ∧ Fits State.reset 0 ∧
      locateFrame (windowBytes State.reset) = .framingError := by
  unfold Fits
  and_intros <;> decide

theorem witness_DetectorReturnsTheFirstMatch :
    4 ≤ [0, 0, 0, (0 : Byte)].length ∧ determineLength [0, 0, 0, 0] 4 = .ok 0 0 ∧
      determineLength [0, 0, 0, 0] 3 = .fcsMismatch := by decide

/-- V-F4 and V-F11b: the candidate at the end of the window, and none. -/
theorem witness_DetlenSetsTheLength :
    ¬Fits { State.reset with len := 4097 } 0 ∧ Fits (loaded 0 [0, 0, 0, 0]) 0 ∧
      SelfMatches (windowBytes (loaded 0 [0, 0, 0, 0])) 0 ∧
      0 + 4 ≤ min (loaded 0 [0, 0, 0, 0]).len.toNat (loaded 0 [0, 0, 0, 0]).maxLen.toNat ∧
      ∀ k, ¬k + 4 ≤ min (loaded 0 [0, 0, 0, 0]).len.toNat ({ loaded 0 [0, 0, 0, 0] with maxLen := 3 } : State).maxLen.toNat := by
  refine ⟨by unfold Fits; decide, by unfold Fits; decide, by unfold SelfMatches; decide, by decide, fun k => ?_⟩
  have h : min (loaded 0 [0, 0, 0, 0]).len.toNat
      ({ loaded 0 [0, 0, 0, 0] with maxLen := 3 } : State).maxLen.toNat = 3 := by decide
  omega

/-- `VALIDATE`: a state for each outcome, with alignment and without. -/
theorem witness_ValidateOutcomes :
    (State.reset.Inv ∧ ¬Fits { State.reset with len := 4097 } 0 ∧ Fits State.reset 0 ∧ State.reset.alignEn = true ∧
      locateFrame (windowBytes State.reset) = .framingError) ∧
      (locateFrame (windowBytes (loaded 0 [0x55, 0x55, 0x55, 0xD5, 1, 2, 3])) = .ok [1, 2, 3] 3 4 0 ∧
        locateFrame (windowBytes (loaded 0 [0x55, 0x55, 0x55, 0xD5, 1, 2, 3, 4])) = .ok [1, 2, 3, 4] 4 4 0 ∧
        determineLength [1, 2, 3, 4] (min 4 0xFFFFFFFF) = .fcsMismatch ∧
        determineLength [0, 0, 0, 0] (min 4 0xFFFFFFFF) = .ok 0 0) ∧
      (({ loaded 0 [1, 2, 3] with alignEn := false } : State).alignEn = false ∧ (loaded 0 [1, 2, 3]).len.toNat < 4 ∧
        4 ≤ (loaded 0 [1, 2, 3, 4]).len.toNat ∧
        determineLength (windowBytes (loaded 0 [1, 2, 3, 4])) 4 = .fcsMismatch ∧
        determineLength (windowBytes (loaded 0 [0, 0, 0, 0])) 4 = .ok 0 0) := by
  unfold Fits
  and_intros <;> decide

theorem witness_ValidateRefinesThePureFunction : (loaded 0 [0, 0, 0, 0]).Inv ∧ Fits (loaded 0 [0, 0, 0, 0]) 0 := by
  unfold Fits
  and_intros <;> decide

/-- V-F18's payload `AB`: its one shorter prefix, the empty one, does not match itself. -/
theorem witness_ValidateRecoversTheFrame :
    6 ∈ [0, 2, 4, 6] ∧ [(0xAB : Byte)].length + 4 ≤ 5 ∧
      ∀ k, k < [(0xAB : Byte)].length → ¬SelfMatches (frameOf [0xAB]) k := by
  unfold SelfMatches
  and_intros <;> decide

theorem witness_DetlenUndoesAppendfcs :
    (loaded 0 [0xAB]).Inv ∧ Fits (loaded 0 [0xAB]) 4 ∧ (loaded 0 [0xAB]).len.toNat + 4 ≤ (loaded 0 [0xAB]).maxLen.toNat ∧
      ∀ k, k < (loaded 0 [0xAB]).len.toNat → ¬SelfMatches (frameOf (windowBytes (loaded 0 [0xAB]))) k := by
  unfold Fits SelfMatches
  and_intros <;> decide

theorem witness_QinitEmptiesTheQueue :
    ({ State.reset with arg := 4094 } : State).arg.toNat % 4 ≠ 0 ∧
      State.reset.cfg.memSize < ({ State.reset with arg := 4100 } : State).arg.toNat ∧
      ({ State.reset with arg := 4096 } : State).arg.toNat % 4 = 0 ∧
      ({ State.reset with arg := 4096 } : State).arg.toNat ≤ State.reset.cfg.memSize := by decide

/-- V-Q3 and V-Q5: a state for each outcome of `QRESERVE`, at the exact fits. -/
theorem witness_QreserveOutcomes :
    ((queue noneOffset noneOffset 57 0 []).Inv ∧ (queue noneOffset noneOffset 57 0 []).qcap.toNat <
        footprintOf (queue noneOffset noneOffset 57 0 []) ∧
      footprintOf (queue noneOffset noneOffset 56 0 []) ≤ (queue noneOffset noneOffset 56 0 []).qcap.toNat) ∧
      ((queue 0 0 0 0 [(0, 8, 128)]).Inv ∧ ¬HeaderSane (queue 0 0 0 0 [(0, 8, 128)]) 0) ∧
      ((queue 32 32 28 0 [(32, 8, 16)]).Inv ∧ HeaderSane (queue 32 32 28 0 [(32, 8, 16)]) 32 ∧
        NoRoom (queue 32 32 28 0 [(32, 8, 16)]) ∧ PlacedAt (queue 32 32 24 0 [(32, 8, 16)]) 0 16 ∧
        PlacedAt (queue 32 32 8 0 [(32, 8, 16)]) 48 0) ∧
      (HeaderSane (queue 32 0 8 0 [(32, 8, 32), (0, 8, 16)]) 0 ∧
        PlacedAt (queue 32 0 8 0 [(32, 8, 32), (0, 8, 16)]) 16 0 ∧ NoRoom (queue 32 0 9 0 [(32, 8, 32), (0, 8, 16)]) ∧
        NoRoom (queue 32 0 0 0 [(32, 8, 32), (0, 8, 32)])) := by
  unfold HeaderSane NoRoom PlacedAt FitsIn
  and_intros <;> decide

theorem witness_QreserveNeverSplitsARecord :
    (queue 32 32 20 0 [(32, 8, 16)]).Inv ∧
      passes (exec .qreserve (queue 32 32 20 0 [(32, 8, 16)])) (fun t => t.err == .noError) = true ∧
      passes (exec .qreserve (queue 32 32 28 0 [(32, 8, 16)])) (fun t => t.err != .noError) = true := by decide

theorem witness_QcommitOutcomes :
    (queue 0 0 8 0 [(0, 8, 16)]).Inv ∧ (queue noneOffset noneOffset 0 0 []).qtail = 0xFFFFFFFF ∧
      (queue 0 12 4 0 [(0, 4, 12), (12, 4, 12)]).recd ≠ (queue 0 12 4 0 [(0, 4, 12), (12, 4, 12)]).qtail ∧
      ((queue 0 0 8 0 [(0, 8, 17)]).qtail ≠ 0xFFFFFFFF ∧
        (queue 0 0 8 0 [(0, 8, 17)]).recd = (queue 0 0 8 0 [(0, 8, 17)]).qtail ∧
        ¬HeaderSane (queue 0 0 8 0 [(0, 8, 17)]) 0) ∧
      (HeaderSane (queue 0 0 9 0 [(0, 8, 16)]) 0 ∧
        dataField (queue 0 0 9 0 [(0, 8, 16)]) 0 < (queue 0 0 9 0 [(0, 8, 16)]).arg.toNat) ∧
      (queue 0 0 8 0 [(0, 8, 16)]).arg.toNat ≤ dataField (queue 0 0 8 0 [(0, 8, 16)]) 0 := by
  unfold HeaderSane
  and_intros <;> decide

theorem witness_QcommitNeverGrowsTheRecord :
    (queue 0 0 4 0 [(0, 9, 20)]).Inv ∧
      passes (exec .qcommit (queue 0 0 4 0 [(0, 9, 20)])) (fun t => t.err == .noError) = true := by decide

theorem witness_QpeekReturnsTheHead :
    (queue noneOffset noneOffset 0 0 []).Inv ∧ (queue noneOffset noneOffset 0 0 []).qhead = 0xFFFFFFFF ∧
      (queue 0 0 0 0 [(0, 8, 17)]).Inv ∧ (queue 0 0 0 0 [(0, 8, 17)]).qhead ≠ 0xFFFFFFFF ∧
      ¬HeaderSane (queue 0 0 0 0 [(0, 8, 17)]) 0 ∧ HeaderSane (queue 0 0 0 0 [(0, 8, 16)]) 0 := by
  unfold HeaderSane
  and_intros <;> decide

theorem witness_QconsumeRemovesTheHead :
    (queue noneOffset noneOffset 0 0 []).qhead = 0xFFFFFFFF ∧
      (queue 0 0 0 0 [(0, 8, 16)]).qhead = (queue 0 0 0 0 [(0, 8, 16)]).qtail ∧
      ((queue 0 16 0 0 [(0, 32, 16), (16, 8, 16)]).Inv ∧
        (queue 0 16 0 0 [(0, 32, 16), (16, 8, 16)]).qhead ≠ (queue 0 16 0 0 [(0, 32, 16), (16, 8, 16)]).qtail ∧
        ¬HeaderSane (queue 0 16 0 0 [(0, 32, 16), (16, 8, 16)]) 0) ∧
      HeaderSane (queue 48 0 0 0 [(48, 8, 16), (0, 8, 16)]) 48 := by
  unfold HeaderSane
  and_intros <;> decide

/-- Two live records, the older one at the arena end (V-Q5). -/
theorem witness_QueueIsFirstInFirstOut :
    (queue 48 0 0 0 [(48, 8, 16), (0, 8, 16)]).Inv ∧
      (queue 48 0 0 0 [(48, 8, 16), (0, 8, 16)]).QueueInv [48, 0] ∧ Instr.qconsume.isQueue = true ∧
      Instr.qconsume.wf (queue 48 0 0 0 [(48, 8, 16), (0, 8, 16)]).cfg.hasRpq = true := by
  refine ⟨by decide, ⟨⟨by decide, by decide, rfl, by decide, by decide, by unfold State.walk; decide⟩, by decide, ?_,
    by unfold State.occupied; decide, by decide⟩, rfl, rfl⟩
  unfold State.apart
  decide

end Sys2Proof.Tests
end

/-! PROOFS, family 10_state: the reset values (10_state.md R51) and the build without the queue unit (R42). -/

namespace Sys2Proof.Proofs

open Sys2Proof.Machine Sys2Proof.Claims

/-! ## Reset -/

/-- Settles O15, from the law of the reset transition: only `MEM` and the free counter depend on the old state. -/
theorem resetValues : Obligations.ResetValues := by
  intro s rest h
  obtain ⟨m, k, hreset, hmem, -, -⟩ := (s.take rest).resetStep_spec
  have hstep : step s = .next (State.resetOf s.cfg m rest k) := (step_reset h).trans (congrArg _ hreset)
  refine ⟨_, hstep, ?_⟩
  simpa [State.irq] using hmem

/-! ## The model's words against those of the statements -/

/-- What a step does before anything else is `take` of the model and `begun` of the statements (logs 1, 11). -/
theorem take_eq_begun (s : State) (rest : List Event) : s.take rest = begun s rest := rfl

/-- `complete` of the model is `ended` of the statements (30_encoding.md R99). -/
theorem complete_eq_ended (s : State) (e : ErrCode) : s.complete e = ended s e := rfl

/-! ## Which commands a build decodes -/

theorem wf_of_decodeZ {b : Bool} {w : Word} {i j : Instr} (h : decodeZ b w i = .instr j) : j.wf b = true := by
  unfold decodeZ at h
  split at h
  · split at h
    · cases h; assumption
    · cases h
  · cases h

theorem wf_of_decodeI {b : Bool} {w : Word} {j : Instr} (h : decodeI w .crcbyte = .instr j) : j.wf b = true := by
  unfold decodeI at h
  split at h
  · cases h; exact Bool.or_true b
  · cases h

/-- A build decodes no command it does not have (R95 (c)). -/
theorem wf_of_decode {b : Bool} {w : Word} {i : Instr} (h : decode b w = .instr i) : i.wf b = true := by
  unfold decode at h
  split at h
  case h_8 => exact wf_of_decodeI h
  case h_14 => cases h
  all_goals exact wf_of_decodeZ h

theorem isQueue_of_decode_false {w : Word} {i : Instr} (h : decode false w = .instr i) : i.isQueue = false := by
  simpa [Instr.wf] using wf_of_decode h

/-- The five queue words are illegal on a build without the unit (R95 (c)). -/
theorem decode_false_encode {i : Instr} (h : i.isQueue = true) :
    decode false (encode i) = .illegal .noQueueUnit := by
  cases i with
  | qinit | qreserve | qcommit | qpeek | qconsume => decide
  | nop | locate | genfcs | detlen | validate | appendfcs | crcinit | crcbyte _ => cases h

/-! ## The registers of the queue unit

Only the queue commands look at `ARG`, `REC` and the unit's own five registers. Said once, as a commutation: replacing
the seven registers before a command is replacing them after it. That a command leaves them alone follows by
replacing them with themselves. -/

/-- `s` with `ARG`, `REC` and the five registers of the queue unit as `u` has them. -/
def withQueueRegs (s u : State) : State :=
  { s with
    arg := u.arg
    recd := u.recd
    qdata := u.qdata
    qdlen := u.qdlen
    qhead := u.qhead
    qtail := u.qtail
    qcap := u.qcap }

/-- `f` answers on `s`, and does the same whatever the seven queue registers hold, which it leaves as they are. -/
def IgnoresQueueRegs (f : State → Result) (s : State) : Prop :=
  ∃ t, f s = .next t ∧ ∀ u, f (withQueueRegs s u) = .next (withQueueRegs t u)

/-- A codec command ignores the queue registers if what it does on its window does. -/
theorem IgnoresQueueRegs.withWindow {s : State} {k : State → List Byte → Result}
    (h : IgnoresQueueRegs (fun s' => k s' s.window) s) (extra : Nat) :
    IgnoresQueueRegs (fun s' => s'.withWindow extra (k s')) s := by
  by_cases hf : s.windowFits extra
  · obtain ⟨t, ht, hu⟩ := h
    exact ⟨t, (State.withWindow_of_fits hf _).trans ht, fun u =>
      (State.withWindow_of_fits (s := withQueueRegs s u) hf _).trans (hu u)⟩
  · exact ⟨_, State.withWindow_of_not_fits hf _, fun u =>
      State.withWindow_of_not_fits (s := withQueueRegs s u) hf _⟩

theorem execGenfcs_ignoresQueueRegs (s : State) : IgnoresQueueRegs execGenfcs s := by
  refine IgnoresQueueRegs.withWindow ?_ 0
  exact ⟨_, rfl, fun _ => rfl⟩

theorem execAppendfcs_ignoresQueueRegs (s : State) : IgnoresQueueRegs execAppendfcs s := by
  refine IgnoresQueueRegs.withWindow ?_ 4
  exact ⟨_, rfl, fun _ => rfl⟩

theorem execLocate_ignoresQueueRegs (s : State) : IgnoresQueueRegs execLocate s := by
  refine IgnoresQueueRegs.withWindow ?_ 0
  unfold IgnoresQueueRegs
  cases locateFrame s.window with
  | framingError => exact ⟨_, rfl, fun _ => rfl⟩
  | ok out n i j => exact ⟨_, rfl, fun _ => rfl⟩

theorem execDetlen_ignoresQueueRegs (s : State) : IgnoresQueueRegs execDetlen s := by
  refine IgnoresQueueRegs.withWindow ?_ 0
  have hcap (u : State) : (withQueueRegs s u).scanBound (withQueueRegs s u).len.toNat = s.scanBound s.len.toNat := rfl
  simp only [IgnoresQueueRegs, hcap]
  cases determineLength s.window (s.scanBound s.len.toNat) with
  | fcsMismatch => exact ⟨_, rfl, fun _ => rfl⟩
  | ok length c => exact ⟨_, rfl, fun _ => rfl⟩

theorem validateAligned_ignoresQueueRegs (s : State) (data : List Byte) :
    IgnoresQueueRegs (fun s' => s'.validateAligned data) s := by
  have hcap (u : State) : (withQueueRegs s u).scanBound data.length = s.scanBound data.length := rfl
  simp only [IgnoresQueueRegs, State.validateAligned, hcap]
  by_cases hl : data.length < 4
  · simp only [hl, if_true]
    exact ⟨_, rfl, fun _ => rfl⟩
  · simp only [hl, if_false]
    cases determineLength data (s.scanBound data.length) with
    | fcsMismatch => exact ⟨_, rfl, fun _ => rfl⟩
    | ok length c => exact ⟨_, rfl, fun _ => rfl⟩

theorem execValidate_ignoresQueueRegs (s : State) : IgnoresQueueRegs execValidate s := by
  refine IgnoresQueueRegs.withWindow ?_ 0
  have halign (u : State) : (withQueueRegs s u).alignEn = s.alignEn := rfl
  simp only [IgnoresQueueRegs, halign]
  cases s.alignEn with
  | false => exact validateAligned_ignoresQueueRegs s s.window
  | true =>
    cases locateFrame s.window with
    | framingError => exact ⟨_, rfl, fun _ => rfl⟩
    | ok out n i j => exact validateAligned_ignoresQueueRegs (s.putLocated out n i j) out

/-- Every command but the five of the queue unit ignores its registers. -/
theorem exec_ignoresQueueRegs {i : Instr} (h : i.isQueue = false) (s : State) : IgnoresQueueRegs (exec i) s := by
  cases i with
  | nop | crcinit | crcbyte _ => exact ⟨_, rfl, fun _ => rfl⟩
  | genfcs => exact execGenfcs_ignoresQueueRegs s
  | appendfcs => exact execAppendfcs_ignoresQueueRegs s
  | locate => exact execLocate_ignoresQueueRegs s
  | detlen => exact execDetlen_ignoresQueueRegs s
  | validate => exact execValidate_ignoresQueueRegs s
  | qinit | qreserve | qcommit | qpeek | qconsume => cases h

/-- Without the queue unit no engine turn looks at its registers (10_state.md R42). -/
theorem engineTurn_ignoresQueueRegs {s : State} (hq : s.cfg.hasRpq = false) : IgnoresQueueRegs engineTurn s := by
  cases hb : s.busy with
  | false => exact ⟨s, engineTurn_idle hb, fun u => engineTurn_idle (s := withQueueRegs s u) hb⟩
  | true =>
    cases hf : s.fatal with
    | true => exact ⟨_, engineTurn_halted hb hf, fun u => engineTurn_halted (s := withQueueRegs s u) hb hf⟩
    | false =>
      cases hd : decode s.cfg.hasRpq s.pend with
      | illegal c =>
        exact ⟨_, engineTurn_illegal hb hf hd, fun u => engineTurn_illegal (s := withQueueRegs s u) hb hf hd⟩
      | instr i =>
        obtain ⟨t, ht, hu⟩ := exec_ignoresQueueRegs (isQueue_of_decode_false (hq ▸ hd)) s
        exact ⟨t, (engineTurn_instr hb hf hd).trans ht, fun u =>
          (engineTurn_instr (s := withQueueRegs s u) hb hf hd).trans (hu u)⟩

/-- What ignores the queue registers leaves them as they are. -/
theorem IgnoresQueueRegs.keeps {f : State → Result} {s t : State} (h : IgnoresQueueRegs f s) (ht : f s = .next t) :
    withQueueRegs t s = t := by
  obtain ⟨t', ht', hu⟩ := h
  obtain rfl : t' = t := Host.Outcome.next.inj (ht'.symm.trans ht)
  have hs : f s = .next (withQueueRegs t' s) := hu s
  exact Host.Outcome.next.inj (hs.symm.trans ht')

/-- The five registers of the unit itself, which no host write reaches (R37 to R41): `QDATA`, `QDLEN`, `QHEAD`,
`QTAIL`, `QCAP`. -/
def unitRegs (s : State) : Word × Word × Word × Word × Word := (s.qdata, s.qdlen, s.qhead, s.qtail, s.qcap)

theorem storeReg_unitRegs (s : State) (v : Word) (r : Option RegName) : unitRegs (s.storeReg v r) = unitRegs s := by
  cases r with
  | none => rfl
  | some r => cases r <;> rfl

theorem transact_unitRegs (s : State) (tr : Transaction) : unitRegs (s.transact tr) = unitRegs s := by
  rcases s.transact_cases tr with h | ⟨a, h⟩ | ⟨-, n, h⟩ | ⟨-, h⟩ | ⟨v, h⟩ | ⟨-, v, r, h⟩ | ⟨-, a, v, -, -, -, h⟩
  case inr.inr.inr.inr.inr.inl => exact h ▸ storeReg_unitRegs s v r
  all_goals exact (congrArg unitRegs h).trans rfl

/-- Without the queue unit a step keeps the unit's registers, or is a reset. -/
theorem step_unitRegs {s t : State} (hq : s.cfg.hasRpq = false) (h : step s = .next t) :
    unitRegs t = unitRegs s ∨ unitRegs t = (noneOffset, 0, noneOffset, noneOffset, 0) := by
  rcases step_cases h with ⟨rest, -, hturn⟩ | ⟨tr, rest, -, rfl⟩ | ⟨rest, -, rfl⟩
  · have hk := (engineTurn_ignoresQueueRegs (s := s.take rest) hq).keeps hturn
    exact .inl (congrArg unitRegs hk).symm
  · exact .inl (transact_unitRegs _ tr)
  · obtain ⟨m, k, hreset, -⟩ := (s.take rest).resetStep_spec
    exact .inr (congrArg unitRegs hreset)

/-- Without the queue unit an engine step is the same whatever `ARG` and `REC` hold. -/
theorem step_ignores_arg_recd {s : State} {rest : List Event} (hq : s.cfg.hasRpq = false) (hdue : EngineDue s rest)
    (a r : Word) :
    ∃ t, step s = .next t ∧ step { s with arg := a, recd := r } = .next { t with arg := a, recd := r } := by
  have hign := engineTurn_ignoresQueueRegs (s := s.take rest) hq
  obtain ⟨t, ht, hu⟩ := hign
  have hk : withQueueRegs t (s.take rest) = t := IgnoresQueueRegs.keeps ⟨t, ht, hu⟩ ht
  refine ⟨t, (step_engine hdue.1).trans ht, ?_⟩
  calc step { s with arg := a, recd := r }
      = engineTurn (withQueueRegs (s.take rest) { s with arg := a, recd := r }) := step_engine hdue.1
    _ = .next (withQueueRegs t { s with arg := a, recd := r }) := hu _
    _ = .next { withQueueRegs t (s.take rest) with arg := a, recd := r } := rfl
    _ = .next { t with arg := a, recd := r } := by rw [hk]

/-- Without the queue unit a queue word ends with `ERR_ILLCMD` (30_encoding.md R95 (c), R100). -/
theorem step_queue_word_illegal {s : State} {rest : List Event} {i : Instr} (hq : s.cfg.hasRpq = false)
    (hdue : EngineDue s rest) (hf : s.fatal = false) (hi : i.isQueue = true) (hp : s.pend = encode i) :
    step s = .next (ended (begun s rest) .illcmd) := by
  have hd : decode (s.take rest).cfg.hasRpq (s.take rest).pend = .illegal .noQueueUnit := by
    simpa [hq, hp] using decode_false_encode hi
  rw [step_engine hdue.1, engineTurn_illegal (s := s.take rest) hdue.2 hf hd, complete_eq_ended, take_eq_begun]

/-- Settles O25: a step keeps the unit's registers, whose reset values the invariant gives, or is a reset; the two
clauses on engine steps are `step_queue_word_illegal` and `step_ignores_arg_recd`. -/
theorem buildWithoutQueueUnit : Obligations.BuildWithoutQueueUnit := by
  intro s hinv hq
  obtain ⟨-, -, -, -, hnone⟩ := hinv
  have hregs : unitRegs s = (noneOffset, 0, noneOffset, noneOffset, 0) := by simp [unitRegs, hnone hq]
  refine ⟨fun t ht => ?_, fun _ _ => step_queue_word_illegal hq, fun _ a r hdue => step_ignores_arg_recd hq hdue a r⟩
  have ht : unitRegs t = (noneOffset, 0, noneOffset, noneOffset, 0) :=
    (step_unitRegs hq ht).elim (·.trans hregs) id
  simpa [unitRegs] using ht

end Sys2Proof.Proofs

/-! PROOFS, family 20_memory: bus errors (20_memory.md R66) and the register accesses of an idle FCU (R67). -/

namespace Sys2Proof.Proofs
open Sys2Proof.Machine Sys2Proof.Claims

/-! ## Bus errors -/

/-- A bus error is answered, and nothing else happens (R66). -/
theorem transact_of_isBusError {s : State} {t : Transaction} (h : isBusError s.cfg t = true) :
    s.transact t = s.answerWith .busError := if_pos h

theorem isBusError_of_inBlock {c : Config} {t : Transaction} (h : InBlock c t.addr)
    (hbad : t.size ≠ .four ∨ t.addr % 4 ≠ 0) : isBusError c t = true := by
  simpa [isBusError, target_of_reg h, Decidable.or_iff_not_imp_left] using hbad

theorem isBusError_of_inMem {c : Config} {t : Transaction} (hw : c.wf) (h : InMem c t.addr)
    (hbad : t.addr % t.size.bytes ≠ 0) : isBusError c t = true := by
  simpa [isBusError, target_of_mem hw h] using hbad

/-- Settles O11: each of the two misaligned accesses is a bus error of the model, whatever `BUSY` is. -/
theorem busErrorsChangeNothing : Obligations.BusErrorsChangeNothing := by
  intro s t rest hw horder hbad
  have herr : isBusError (s.take rest).cfg t = true := by
    rcases hbad with ⟨hblock, hbad⟩ | ⟨hmem, hbad⟩
    · exact isBusError_of_inBlock hblock hbad
    · exact isBusError_of_inMem hw hmem hbad
  rw [step_bus horder, transact_of_isBusError herr]
  rfl

/-! ## The register words as numbers -/

/-- Concatenation places the upper part above the lower one. -/
theorem toNat_append_eq_add {m n : Nat} (x : BitVec m) (y : BitVec n) :
    (x ++ y).toNat = 2 ^ n * x.toNat + y.toNat := by
  rw [BitVec.toNat_append, ← Nat.shiftLeft_add_eq_or_of_lt y.isLt, Nat.shiftLeft_eq, Nat.mul_comm]

theorem code_toNat (e : ErrCode) : e.code.toNat = errNumber e := by cases e <;> rfl

/-- `ID` as a word is its number (R23). -/
theorem idWord_eq (c : Config) : idWord c = BitVec.ofNat 32 (0x46431000 + c.hasRpq.toNat) := by
  unfold idWord
  cases c.hasRpq <;> rfl

/-- `CTRL` as a word is its number (R24). -/
theorem ctrlWord_eq (s : State) : s.ctrlWord = BitVec.ofNat 32 (s.alignEn.toNat + 2 * s.irqEn.toNat) := by
  unfold State.ctrlWord
  cases s.alignEn <;> cases s.irqEn <;> rfl

/-- `STATUS` as a word is its number (R25, R205). -/
theorem statusWord_eq (s : State) : s.statusWord = BitVec.ofNat 32 (statusNumber s) := by
  have hword : s.statusWord.toNat = statusNumber s := by
    have h : s.statusWord.toNat = ((0 : BitVec 23) ++ BitVec.ofBool s.busyErr ++ s.err.code ++
      BitVec.ofBool s.fatal ++ BitVec.ofBool s.ok ++ BitVec.ofBool s.done ++ BitVec.ofBool s.busy).toNat := rfl
    rw [h]
    simp only [toNat_append_eq_add, code_toNat, BitVec.toNat_ofBool, BitVec.ofNat_eq_ofNat, BitVec.toNat_ofNat,
      statusNumber]
    omega
  rw [← hword, BitVec.ofNat_toNat, BitVec.setWidth_eq]

/-! ## The register map

Both tables, the model's by register and the statement's by offset, agree at the offset of each register and at the
reserved offsets; `offset_of_regAt` says that there are no others. -/

theorem regAt_offset (r : RegName) : regAt r.offset = some r := by cases r <;> rfl

theorem ne_offset_of_regAt {o : Nat} (h : regAt o = none) (r : RegName) : o ≠ r.offset := by
  rintro rfl
  simp [regAt_offset] at h

theorem blockValue_offset (s : State) (r : RegName) : blockValue s r.offset = s.regWord (some r) := by
  cases r
  case id => exact (idWord_eq s.cfg).symm
  case ctrl => exact (ctrlWord_eq s).symm
  case status => exact (statusWord_eq s).symm
  all_goals rfl

/-- Every offset that `blockValue` names is a register's, so a reserved one reads 0 (R70). -/
theorem blockValue_reserved {o : Nat} (h : regAt o = none) (s : State) : blockValue s o = 0 := by
  have hne : ∀ r : RegName, o ≠ r.offset := ne_offset_of_regAt h
  grind [blockValue, RegName.offset]

/-- A register reads as the register map says (R22 to R41). -/
theorem regWord_regAt (s : State) (o : Nat) : s.regWord (regAt o) = blockValue s o := by
  cases h : regAt o with
  | none => exact (blockValue_reserved h s).symm
  | some r => exact offset_of_regAt h ▸ (blockValue_offset s r).symm

theorem blockStored_offset (s : State) (v : Word) {r : RegName} (h : r ≠ .cmd) :
    blockStored s r.offset v = s.storeReg v (some r) := by
  cases r
  case cmd => exact absurd rfl h
  all_goals rfl

/-- Every offset that `blockStored` names is a register's, so a write to a reserved one is ignored (R70). -/
theorem blockStored_reserved {o : Nat} (h : regAt o = none) (s : State) (v : Word) : blockStored s o v = s := by
  have hne : ∀ r : RegName, o ≠ r.offset := ne_offset_of_regAt h
  grind [blockStored, RegName.offset]

/-- A register stores as the register map says, `CMD` apart (R22, R53). -/
theorem storeReg_regAt {o : Nat} (h : o ≠ 0x0C) (s : State) (v : Word) :
    s.storeReg v (regAt o) = blockStored s o v := by
  cases hr : regAt o with
  | none => exact (blockStored_reserved hr s v).symm
  | some r =>
    obtain rfl := offset_of_regAt hr
    have hcmd : r ≠ .cmd := by
      rintro rfl
      exact h rfl
    exact (blockStored_offset s v hcmd).symm

/-! ## Register accesses -/

theorem readReg_of_idle {s : State} (hb : s.busy = false) (r : Option RegName) :
    s.readReg r = s.answerWith (.data .four (s.regWord r)) := by
  simp [State.readReg, hb]

theorem writeReg_of_idle {s : State} (hb : s.busy = false) (r : Option RegName) (v : Word) :
    s.writeReg r v = (s.storeReg v r).answerWith .completed := by
  simp [State.writeReg, hb]

theorem inBlock_regBase_add {o : Nat} (c : Config) (ho : o < 256) : InBlock c (c.regBase + o) :=
  ⟨Nat.le_add_right _ _, Nat.add_lt_add_left ho _⟩

theorem regBase_add_aligned {c : Config} (hw : c.wf) {o : Nat} (ha : o % 4 = 0) : (c.regBase + o) % 4 = 0 := by
  obtain ⟨-, -, -, hbase, -⟩ := hw
  omega

/-- A word-aligned word access to the block reads the register at its offset (R67). -/
theorem transact_regRead {s : State} {o : Nat} (hw : s.cfg.wf) (ho : o < 256) (ha : o % 4 = 0) :
    s.transact ⟨s.cfg.regBase + o, .four, .read⟩ = s.readReg (regAt o) := by
  have h := State.transact_reg (t := ⟨s.cfg.regBase + o, .four, .read⟩) (inBlock_regBase_add s.cfg ho) rfl
    (regBase_add_aligned hw ha)
  rwa [Nat.add_sub_cancel_left] at h

/-- A word-aligned word access to the block writes the register at its offset (R67). -/
theorem transact_regWrite {s : State} {o : Nat} (hw : s.cfg.wf) (ho : o < 256) (ha : o % 4 = 0) (v : Word) :
    s.transact ⟨s.cfg.regBase + o, .four, .write v⟩ = s.writeReg (regAt o) v := by
  have h := State.transact_reg (t := ⟨s.cfg.regBase + o, .four, .write v⟩) (inBlock_regBase_add s.cfg ho) rfl
    (regBase_add_aligned hw ha)
  rwa [Nat.add_sub_cancel_left] at h

theorem transact_idle_regRead {s : State} {o : Nat} (hw : s.cfg.wf) (hb : s.busy = false) (ho : o < 256)
    (ha : o % 4 = 0) :
    s.transact ⟨s.cfg.regBase + o, .four, .read⟩ = s.answerWith (.data .four (blockValue s o)) := by
  rw [transact_regRead hw ho ha, readReg_of_idle hb, regWord_regAt]

theorem transact_idle_regWrite {s : State} {o : Nat} (hw : s.cfg.wf) (hb : s.busy = false) (ho : o < 256)
    (ha : o % 4 = 0) (hcmd : o ≠ 0x0C) (v : Word) :
    s.transact ⟨s.cfg.regBase + o, .four, .write v⟩ = (blockStored s o v).answerWith .completed := by
  rw [transact_regWrite hw ho ha, writeReg_of_idle hb, storeReg_regAt hcmd]

/-- Settles O13: while idle the access reads or stores what the register at its offset does, and that register map is
the one of the statement (`regWord_regAt`, `storeReg_regAt`). -/
theorem idleRegisterAccesses : Obligations.IdleRegisterAccesses := by
  intro s o rest hw hb ho ha
  refine ⟨fun horder => ?_, fun v hcmd horder => ?_⟩
  · have hread := transact_idle_regRead (s := begun s rest) hw hb ho ha
    exact (step_bus horder).trans (congrArg _ hread)
  · have hwrite := transact_idle_regWrite (s := begun s rest) hw hb ho ha hcmd v
    exact (step_bus horder).trans (congrArg _ hwrite)

end Sys2Proof.Proofs

/-! PROOFS, family 30_encoding: the illegal words (30_encoding.md R95), the accepted CMD write (R97) and the engine
step (R100). -/

namespace Sys2Proof.Proofs

open Sys2Proof.Machine Sys2Proof.Claims

/-! ## The engine step in the statements' words -/

/-- FATAL ends the pending command whatever its word is (R100 (1)). -/
theorem step_halted {s : State} {rest : List Event} (hdue : EngineDue s rest) (hf : s.fatal = true) :
    step s = .next (ended (begun s rest) .halted) := by
  obtain ⟨horder, hb⟩ := hdue
  rw [step_engine horder, engineTurn_halted (s := s.take rest) hb hf, complete_eq_ended, take_eq_begun]

/-- A word that decodes to no command ends with `ERR_ILLCMD` (R100 (2)). -/
theorem step_illegal {s : State} {rest : List Event} {c : IllegalCause} (hdue : EngineDue s rest)
    (hf : s.fatal = false) (hd : decode s.cfg.hasRpq s.pend = .illegal c) :
    step s = .next (ended (begun s rest) .illcmd) := by
  obtain ⟨horder, hb⟩ := hdue
  rw [step_engine horder, engineTurn_illegal (s := s.take rest) hb hf hd, complete_eq_ended, take_eq_begun]

/-- Every other word runs its command (R100 (3)). -/
theorem step_instr {s : State} {rest : List Event} {i : Instr} (hdue : EngineDue s rest) (hf : s.fatal = false)
    (hd : decode s.cfg.hasRpq s.pend = .instr i) : step s = exec i (begun s rest) := by
  obtain ⟨horder, hb⟩ := hdue
  rw [step_engine horder, engineTurn_instr (s := s.take rest) hb hf hd, take_eq_begun]

/-- Settles O4: one clause for each of the three ways the prologue can go. -/
theorem stepRunsTheDecodedCommand : Obligations.StepRunsTheDecodedCommand := fun _ _ hdue =>
  ⟨step_halted hdue, fun hf _ => step_illegal hdue hf, fun hf _ => step_instr hdue hf⟩

/-! ## The illegal words

`IllegalWord` speaks of `op` and of the bits above it as numbers. The decoder picks a row by `op` and tests the row's
must-be-zero field, so the two are compared row by row. -/

theorem decodeZ_illegal_iff (b : Bool) (w : Word) (i : Instr) :
    (∃ c, decodeZ b w i = .illegal c) ↔ w.toNat / 256 ≠ 0 ∨ b = false ∧ i.isQueue = true := by
  rw [ne_eq, ← zeroFieldZ_eq_zero]
  by_cases hz : zeroFieldZ w = 0#24
  · cases b <;> cases hq : i.isQueue <;> simp [decodeZ, Instr.wf, hz, hq]
  · simp [decodeZ, hz]

theorem decodeI_illegal_iff (w : Word) (i : Byte → Instr) :
    (∃ c, decodeI w i = .illegal c) ↔ w.toNat / 65536 ≠ 0 := by
  rw [ne_eq, ← zeroFieldI_eq_zero]
  by_cases hz : zeroFieldI w = 0#16 <;> simp [decodeI, hz]

/-- The twelve values of `op` of format Z (R90, R93). -/
def formatZOps : List Nat := [0x00, 0x01, 0x02, 0x03, 0x04, 0x05, 0x06, 0x10, 0x11, 0x12, 0x13, 0x14]

/-- With an `op` of format Z, (b) of R95 is about bits 31:8 and (c) about an `op` of the queue unit. -/
theorem illegalWord_iff_of_formatZ {b : Bool} {w : Word} (h : w.toNat % 256 ∈ formatZOps) :
    IllegalWord b w ↔ w.toNat / 256 ≠ 0 ∨ b = false ∧ 0x10 ≤ w.toNat % 256 := by
  simp only [formatZOps, List.mem_cons, List.not_mem_nil, or_false] at h
  cases b <;> simp [IllegalWord] <;> omega

/-- With the `op` of `CRCBYTE`, only (b) of R95 is left, about bits 31:16. -/
theorem illegalWord_iff_of_crcbyte {b : Bool} {w : Word} (h : w.toNat % 256 = 0x07) :
    IllegalWord b w ↔ w.toNat / 65536 ≠ 0 := by
  simp [IllegalWord, h]

/-- A row of format Z: the decoder and R95 agree on its words. -/
theorem decodeZ_illegal_iff_illegalWord {b : Bool} {w : Word} {i : Instr} {op : Nat} (hop : (opField w).toNat = op)
    (hrow : op ∈ formatZOps ∧ (i.isQueue = true ↔ 0x10 ≤ op)) :
    (∃ c, decodeZ b w i = .illegal c) ↔ IllegalWord b w := by
  obtain ⟨hz, hq⟩ := hrow
  obtain rfl : w.toNat % 256 = op := (opField_toNat w).symm.trans hop
  rw [decodeZ_illegal_iff, illegalWord_iff_of_formatZ hz, hq]

/-- The decoder finds a word illegal exactly on the grounds of R95. -/
theorem decode_illegal_iff (b : Bool) (w : Word) : (∃ c, decode b w = .illegal c) ↔ IllegalWord b w := by
  unfold decode
  split
  case h_8 hop => rw [decodeI_illegal_iff, illegalWord_iff_of_crcbyte ((opField_toNat w).symm.trans hop)]
  -- `op` is that of no row: ground (a) of R95
  case h_14 => simp_all [IllegalWord, opField_toNat]
  all_goals exact decodeZ_illegal_iff_illegalWord ‹_› (by decide)

/-- Settles O3: `decode_illegal_iff` says which words the prologue finds illegal, and R100 (2) and (3) say what the step
does with each kind. -/
theorem illegalWordsEndWithIllcmd : Obligations.IllegalWordsEndWithIllcmd := by
  intro s rest hdue hf
  rw [← decode_illegal_iff]
  refine ⟨fun ⟨c, hd⟩ => step_illegal hdue hf hd, fun hlegal => ?_⟩
  cases hd : decode s.cfg.hasRpq s.pend with
  | illegal c => exact absurd ⟨c, hd⟩ hlegal
  | instr i => exact ⟨i, rfl, step_instr hdue hf hd⟩

/-! ## The accepted CMD write -/

/-- A write to `CMD` while idle is accepted (R97). -/
theorem transact_idle_cmdWrite {s : State} (hw : s.cfg.wf) (hb : s.busy = false) (w : Word) :
    s.transact ⟨s.cfg.regBase + 0x0C, .four, .write w⟩ = (s.accept w).answerWith .completed := by
  rw [transact_regWrite hw (by decide) (by decide), writeReg_of_idle hb]
  rfl

/-- Settles O6, from the register write of an idle FCU: offset 0x0C is `CMD`, whose store is `accept`. -/
theorem acceptedCmdWrite : Obligations.AcceptedCmdWrite := by
  intro s w rest hw hb horder
  have haccept := transact_idle_cmdWrite (s := begun s rest) hw hb w
  exact (step_bus horder).trans (congrArg _ haccept)

end Sys2Proof.Proofs

/-! PROOFS, family 40_queue: the queue commands `QINIT` (40_queue.md R112), `QRESERVE` (R114), `QCOMMIT` (R117), `QPEEK`
(R119) and `QCONSUME` (R120), each with all its outcomes. -/

namespace Sys2Proof.Proofs

open Sys2Proof.Machine Sys2Proof.Claims

/-! ## Record headers in the statements' words -/

theorem read_four_toNat (m : Memory) (a : Nat) : (m.read a .four).toNat = wordAt m a := bytes_toNat _ _ _ _

theorem dataBytes_eq_dataField (s : State) (off : Nat) : s.dataBytes off = dataField s off := read_four_toNat _ _

theorem memBytes_eq_memField (s : State) (off : Nat) : s.memBytes off = memField s off := read_four_toNat _ _

theorem writePos_eq_writePosOf (s : State) : s.writePos = writePosOf s := by
  rw [State.writePos, memBytes_eq_memField, writePosOf]

/-- The header check of the model is that of R111. -/
theorem hdrOk_iff_headerSane (s : State) (off : Nat) : s.hdrOk off ↔ HeaderSane s off := by
  rw [State.hdrOk, dataBytes_eq_dataField, memBytes_eq_memField, HeaderSane]

theorem withHeader_of_headerSane {s : State} {off : Nat} (hm : s.qcap.toNat ≤ s.cfg.memSize) (h : HeaderSane s off)
    (k : Result) : s.withHeader off k = k :=
  State.withHeader_of_ok ((hdrOk_iff_headerSane s off).2 h) hm k

/-- A corrupt header is a program error (R111). -/
theorem withHeader_of_not_headerSane {s : State} {off : Nat} (hm : s.qcap.toNat ≤ s.cfg.memSize)
    (h : ¬HeaderSane s off) (k : Result) : s.withHeader off k = .next (ended s .prog) :=
  State.withHeader_of_bad (mt (hdrOk_iff_headerSane s off).1 h) hm k

/-! ## The bytes of a header -/

/-- A field holds its number's low four bytes, also where the number has more. -/
theorem getD_leBytes_four (v : Nat) {k : Nat} (hk : k < 4) :
    (leBytes 4 (BitVec.ofNat 32 v)).getD k 0 = byteOf v k := by
  refine BitVec.eq_of_toNat_eq ?_
  obtain rfl | rfl | rfl | rfl : k = 0 ∨ k = 1 ∨ k = 2 ∨ k = 3 := by omega
  all_goals
    simp only [leBytes, List.take_succ_cons, List.getD_cons_zero, List.getD_cons_succ, byteOf, BitVec.extractLsb'_toNat,
      BitVec.toNat_ofNat, Nat.shiftRight_eq_div_pow]
    omega

theorem byteAt_write_four {m : Memory} (h : m.wf = true) (a v x : Nat) :
    (m.write a .four (BitVec.ofNat 32 v)).byteAt x =
      if a ≤ x ∧ x < a + 4 then byteOf v (x - a) else m.byteAt x :=
  (Memory.byteAt_write h a .four _ x).trans
    (ite_congr rfl (fun hx : a ≤ x ∧ x < a + 4 => getD_leBytes_four v (by omega)) fun _ => rfl)

/-- A header written at `off` (10_state.md R44), byte by byte. -/
theorem byteAt_write_header {m : Memory} (h : m.wf = true) (off d f x : Nat) :
    ((m.write off .four (BitVec.ofNat 32 d)).write (off + 4) .four (BitVec.ofNat 32 f)).byteAt x =
      if off ≤ x ∧ x < off + 4 then byteOf d (x - off)
      else if off + 4 ≤ x ∧ x < off + 8 then byteOf f (x - (off + 4))
      else m.byteAt x := by
  rw [byteAt_write_four (Memory.wf_write h off .four _), byteAt_write_four h]
  exact ite_ite_comm _ _ _ _ fun hf hd => by omega

/-! ## QINIT, QPEEK, QCONSUME -/

/-- Settles O44, along the one test of the command: `ARG` is a capacity or it is not. -/
theorem qinitEmptiesTheQueue : Obligations.QinitEmptiesTheQueue := fun _ =>
  ⟨fun hbad => if_pos hbad, fun hmod hle => if_neg (by omega)⟩

/-- Settles O49: the queue is empty, or the header check decides. -/
theorem qpeekReturnsTheHead : Obligations.QpeekReturnsTheHead := by
  rintro s ⟨-, -, -, ⟨-, hcap, -⟩, -⟩
  refine ⟨fun hempty => if_pos hempty, fun hq hbad => ?_, fun hq hok => ?_⟩
  · exact (if_neg hq).trans (withHeader_of_not_headerSane hcap hbad _)
  · rw [← dataBytes_eq_dataField]
    exact (if_neg hq).trans (withHeader_of_headerSane hcap hok _)

/-- Settles O50: the queue is empty, or has one record, or the header check decides. -/
theorem qconsumeRemovesTheHead : Obligations.QconsumeRemovesTheHead := by
  rintro s ⟨-, -, -, ⟨-, hcap, -⟩, -⟩
  refine ⟨fun hempty => if_pos hempty, fun hq hone => (if_neg hq).trans (if_pos hone), fun hq hmore hbad => ?_,
    fun hq hmore hok => ?_⟩
  · exact (if_neg hq).trans ((if_neg hmore).trans (withHeader_of_not_headerSane hcap hbad _))
  · rw [← memBytes_eq_memField]
    exact (if_neg hq).trans ((if_neg hmore).trans (withHeader_of_headerSane hcap hok _))

/-! ## QCOMMIT -/

/-- With `REC` the tail, the header check comes first. -/
theorem execQcommit_of_tail {s : State} (hq : s.qtail ≠ noneOffset) (hrec : s.recd = s.qtail) :
    execQcommit s = s.withHeader s.recd.toNat
      (if s.dataBytes s.recd.toNat < s.arg.toNat then s.fail .prog else s.committed.finish) :=
  if_neg (not_or_intro hq (not_not_intro hrec))

/-- Settles O47: `REC` is not the tail, or the header check and then the test of `ARG` decide; a success writes the
tail's header. -/
theorem qcommitOutcomes : Obligations.QcommitOutcomes := by
  rintro s ⟨-, -, ⟨hwf, -⟩, ⟨-, hcap, -⟩, -⟩
  refine ⟨fun hbad => if_pos hbad, fun hq hrec hbad => ?_, fun hq hrec hok hlt => ?_, fun hq hrec hok hle => ?_⟩
  · exact (execQcommit_of_tail hq hrec).trans (withHeader_of_not_headerSane hcap hbad _)
  · rw [← dataBytes_eq_dataField] at hlt
    exact (execQcommit_of_tail hq hrec).trans ((withHeader_of_headerSane hcap hok _).trans (if_pos hlt))
  · rw [← dataBytes_eq_dataField] at hle
    refine ⟨s.committed.complete .noError,
      (execQcommit_of_tail hq hrec).trans ((withHeader_of_headerSane hcap hok _).trans (if_neg (by omega))), rfl,
      fun x => ?_⟩
    rw [← dataBytes_eq_dataField, ← memBytes_eq_memField]
    exact byteAt_write_header hwf _ _ _ x

/-! ## QRESERVE -/

/-- The fit test of the model is that of R113 (90_conflicts.md C6). -/
theorem fits_iff_fitsIn (s : State) (f room : Nat) : fits s.cfg.qStrictFit f room = true ↔ FitsIn s f room := by
  cases h : s.cfg.qStrictFit <;> simp [fits, FitsIn, h]

/-- Where the model puts the record of a non-empty queue (R114). -/
def placement (s : State) : Option (Nat × Nat) :=
  place s.cfg.qStrictFit (footprintOf s) s.qcap.toNat s.qhead.toNat (writePosOf s)

theorem placement_eq_none_of_noRoom {s : State} (h : NoRoom s) : placement s = none := by
  simp only [NoRoom, ← fits_iff_fitsIn] at h
  unfold placement place
  rcases h with h | ⟨hlt, h1, h2⟩ | ⟨hlt, h⟩
  · rw [if_pos h]
  · rw [if_neg (by omega), if_pos hlt, if_neg h1, if_neg h2]
  · rw [if_neg (by omega), if_neg (by omega), if_neg h]

theorem placement_eq_some_of_placedAt {s : State} {off pad : Nat} (h : PlacedAt s off pad) :
    placement s = some (off, pad) := by
  simp only [PlacedAt, ← fits_iff_fitsIn] at h
  unfold placement place
  rcases h with ⟨hlt, h1, rfl, rfl⟩ | ⟨hlt, h1, h2, rfl, rfl⟩ | ⟨hlt, h, rfl, rfl⟩
  · rw [if_neg (by omega), if_pos hlt, if_pos h1]
  · rw [if_neg (by omega), if_pos hlt, if_neg h1, if_pos h2]
  · rw [if_neg (by omega), if_neg (by omega), if_pos h]

/-- A footprint has room for the header. -/
theorem footprintOf_ge (s : State) : 8 ≤ footprintOf s :=
  (Nat.le_add_right _ _).trans (footprint_ge s.arg.toNat)

/-- A placed record's header lies inside the arena. -/
theorem header_le_of_placement {s : State} {off pad : Nat} (h : placement s = some (off, pad))
    (hhead : s.qhead.toNat < s.qcap.toNat) : off + 8 ≤ s.qcap.toNat := by
  have hf := footprintOf_ge s
  rcases place_some h with ⟨rfl, -, -, hroom⟩ | ⟨rfl, -, -, hroom⟩ | ⟨rfl, -, -, hroom⟩ <;> omega

/-- A non-empty queue checks its tail's header, then places the record. -/
theorem execQreserve_of_nonempty {s : State} (hq : s.qhead ≠ noneOffset) :
    execQreserve s = s.withHeader s.qtail.toNat
      (match placement s with
        | none => s.fail .alloc
        | some (off, pad) => (s.padTail pad).reserveAt off (footprintOf s)) := by
  refine (if_neg hq).trans ?_
  rw [writePos_eq_writePosOf]
  rfl

/-- Padding the tail writes its `memBytes` field (R114), or nothing if the pad is 0. -/
theorem padTail_spec {s : State} (hwf : s.mem.wf = true) (pad : Nat) :
    ∃ m, s.padTail pad = s.setMem m ∧ m.wf = true ∧ ∀ x, m.byteAt x =
      if 0 < pad ∧ s.qtail.toNat + 4 ≤ x ∧ x < s.qtail.toNat + 8 then
        byteOf (memField s s.qtail.toNat + pad) (x - (s.qtail.toNat + 4))
      else s.mem.byteAt x := by
  by_cases hpad : 0 < pad
  · refine ⟨_, State.padTail_pos s hpad, Memory.wf_write hwf _ _ _, fun x => ?_⟩
    rw [byteAt_write_four hwf, memBytes_eq_memField]
    simp only [hpad, true_and, Nat.add_assoc]
  · obtain rfl : pad = 0 := by omega
    exact ⟨s.mem, rfl, hwf, fun x => (if_neg (by omega)).symm⟩

/-- The reservation of the model, after the tail has been padded, is that of R114. -/
theorem reserveAt_reservedAt {s : State} (hwf : s.mem.wf = true) {off : Nat} (pad : Nat)
    (h8 : off + 8 ≤ s.cfg.memSize) :
    ∃ t, (s.padTail pad).reserveAt off (footprintOf s) = .next t ∧ ReservedAt s t off pad := by
  obtain ⟨m, hpad, hwfm, hbytes⟩ := padTail_spec hwf pad
  rw [hpad]
  refine ⟨_, State.reserveAt_of_le (s := s.setMem m) h8 _, ?_, fun x => ?_⟩
  · rw [State.setMem_reserved_eq]
    rfl
  · rw [← hbytes]
    exact byteAt_write_header hwfm _ _ _ x

/-- Settles O45. An empty queue has one fit test; a non-empty one checks its tail's header and then places the record
as R114 says, inside the arena and so inside `MEM`. -/
theorem qreserveOutcomes : Obligations.QreserveOutcomes := by
  rintro s ⟨-, -, ⟨hwf, -⟩, ⟨-, hcap, -, hhead, -⟩, -⟩
  refine ⟨fun hempty hlt => ?_, fun hempty hle => ?_, fun hq hbad => ?_, fun hq hok hfull => ?_,
    fun off pad hq hok hplaced => ?_⟩
  · exact (if_pos hempty).trans (if_pos hlt)
  · have hf := footprintOf_ge s
    have h8 : 0 + 8 ≤ s.cfg.memSize := by omega
    obtain ⟨t, ht, hres⟩ := reserveAt_reservedAt hwf 0 h8
    exact ⟨t, (if_pos hempty).trans ((if_neg hle.not_gt).trans ht), hres⟩
  · exact (execQreserve_of_nonempty hq).trans (withHeader_of_not_headerSane hcap hbad _)
  · refine (execQreserve_of_nonempty hq).trans ((withHeader_of_headerSane hcap hok _).trans ?_)
    rw [placement_eq_none_of_noRoom hfull]
    rfl
  · have hplace := placement_eq_some_of_placedAt hplaced
    have h8 := header_le_of_placement hplace (hhead hq).2
    obtain ⟨t, ht, hres⟩ := reserveAt_reservedAt hwf pad (h8.trans hcap)
    refine ⟨t, (execQreserve_of_nonempty hq).trans ((withHeader_of_headerSane hcap hok _).trans ?_), hres⟩
    rw [hplace]
    exact ht

end Sys2Proof.Proofs

/-! PROOFS, family 41_align: `locateFrame` finds the first pattern and re-emits what follows it (41_align.md R143 to
R148), and `LOCATE` stores that over its window (R150). -/

namespace Sys2Proof.Proofs

open Sys2Proof.Machine Sys2Proof.Claims

/-! ## The accumulator -/

/-- The accumulator of the scan after its first `q` pairs (41_align.md R142, R143). -/
def accAfter (data : List Byte) : Nat → Word
  | 0 => 0
  | q + 1 => feed (accAfter data q) (data.getD (q / 4) 0) (2 * (q % 4))

theorem getLsbD_feed (acc : Word) (b : Byte) (p : Nat) {k : Nat} (hk : k < 32) :
    (feed acc b p).getLsbD k =
      if k = 0 then b.getLsbD (p + 1) else if k = 1 then b.getLsbD p else acc.getLsbD (k - 2) := by
  match k, hk with
  | 0, _ => simp [feed]
  | 1, _ => simp [feed]
  | k + 2, hk => simp [feed, hk, BitVec.getLsbD_eq_getElem (show k < 32 by omega)]

/-- Pair `j` of byte `m`. -/
theorem feed_accAfter (data : List Byte) (m : Nat) {j : Nat} (hj : j < 4) :
    feed (accAfter data (4 * m + j)) (data.getD m 0) (2 * j) = accAfter data (4 * m + j + 1) := by
  rw [accAfter, show (4 * m + j) / 4 = m by omega, show (4 * m + j) % 4 = j by omega]

/-- The accumulator is the last 32 bits fed, the latest in bit 0, zero where fewer have been fed. -/
theorem getLsbD_accAfter (data : List Byte) (q : Nat) {k : Nat} (hk : k < 32) :
    (accAfter data q).getLsbD k = (decide (k < 2 * q) && streamBit data (2 * q - 1 - k)) := by
  induction q generalizing k with
  | zero => simp [accAfter]
  | succ q ih =>
    rw [accAfter, getLsbD_feed _ _ _ hk]
    split_ifs with h0 h1
    · rw [h0, streamBit, decide_eq_true (by omega), Bool.true_and]
      congr 2 <;> omega
    · rw [h1, streamBit, decide_eq_true (by omega), Bool.true_and]
      congr 2 <;> omega
    · rw [ih (by omega), show 2 * (q + 1) - 1 - k = 2 * q - 1 - (k - 2) by omega]
      congr 1
      exact decide_eq_decide.2 (by omega)

/-- The accumulator equals `SFD_PATTERN` exactly where the pattern stands. -/
theorem patternBefore_two_mul (data : List Byte) (q : Nat) :
    PatternBefore data (2 * q) ↔ q ≤ 4 * data.length ∧ accAfter data q = sfdPattern := by
  constructor
  · rintro ⟨-, h32, hlen, hbits⟩
    refine ⟨by omega, BitVec.eq_of_getLsbD_eq fun k hk => ?_⟩
    have hbit := hbits (31 - k) (by omega)
    rw [show 2 * q - 32 + (31 - k) = 2 * q - 1 - k by omega, show 31 - (31 - k) = k by omega] at hbit
    rw [getLsbD_accAfter data q hk, hbit, decide_eq_true (by omega), Bool.true_and]
  · rintro ⟨hlen, hacc⟩
    have hbits {k : Nat} (hk : k < 32) :
        (decide (k < 2 * q) && streamBit data (2 * q - 1 - k)) = sfdPattern.getLsbD k := by
      rw [← getLsbD_accAfter data q hk, hacc]
    have h32 : 31 < 2 * q := of_decide_eq_true (Bool.and_eq_true_iff.1 (hbits (k := 31) (by decide))).1
    refine ⟨by omega, h32, by omega, fun k hk => ?_⟩
    rw [← hbits (show 31 - k < 32 by omega), decide_eq_true (by omega), Bool.true_and]
    congr 1
    omega

/-! ## The scan -/

/-- `o` is the first bit number after `lo` with the pattern before it, or there is none. -/
def FirstPattern (data : List Byte) (lo : Nat) : Option Nat → Prop
  | some s => PatternBefore data s ∧ ∀ r, lo < r → r < s → ¬PatternBefore data r
  | none => ∀ r, lo < r → ¬PatternBefore data r

/-- Bit numbers without the pattern before them can be skipped. -/
theorem FirstPattern.skip {data : List Byte} {lo hi : Nat} {o : Option Nat} (h : FirstPattern data hi o)
    (hno : ∀ r, lo < r → r ≤ hi → ¬PatternBefore data r) : FirstPattern data lo o := by
  have hlate {r : Nat} (hlo : lo < r) (hp : PatternBefore data r) : hi < r := lt_of_not_ge fun hle => hno r hlo hle hp
  cases o with
  | none => exact fun r hlo hp => h r (hlate hlo hp) hp
  | some s =>
    obtain ⟨hs, hmin⟩ := h
    exact ⟨hs, fun r hlo hr hp => hmin r (hlate hlo hp) hr hp⟩

/-- One comparison of the scan, after `q + 1` pairs (R143): the odd bit number in between is no dibit boundary. -/
theorem FirstPattern.compare {data : List Byte} {q s : Nat} {o : Option Nat} (hq : q < 4 * data.length)
    (hs : s = 2 * (q + 1)) (h : FirstPattern data (2 * (q + 1)) o) :
    FirstPattern data (2 * q) (if accAfter data (q + 1) = sfdPattern then some s else o) := by
  have hodd (r : Nat) (hlo : 2 * q < r) (hr : r < 2 * (q + 1)) : ¬PatternBefore data r := by
    rintro ⟨heven, -⟩
    omega
  split_ifs with hacc
  · subst hs
    exact ⟨(patternBefore_two_mul data (q + 1)).2 ⟨hq, hacc⟩, hodd⟩
  · refine h.skip fun r hlo hle hp => ?_
    rcases hle.lt_or_eq with hr | rfl
    · exact hodd r hlo hr hp
    · exact hacc ((patternBefore_two_mul data (q + 1)).1 hp).2

/-- One byte is four pairs, each compared after it is fed. -/
theorem scanBytes_cons {data : List Byte} {b : Byte} {m : Nat} (hb : data.getD m 0 = b) (bs : List Byte) :
    scanBytes (b :: bs) m (accAfter data (4 * m)) =
      if accAfter data (4 * m + 1) = sfdPattern then some (8 * m + 2)
      else if accAfter data (4 * m + 2) = sfdPattern then some (8 * m + 4)
      else if accAfter data (4 * m + 3) = sfdPattern then some (8 * m + 6)
      else if accAfter data (4 * m + 4) = sfdPattern then some (8 * m + 8)
      else scanBytes bs (m + 1) (accAfter data (4 * (m + 1))) := by
  subst hb
  have h0 : feed (accAfter data (4 * m)) _ 0 = _ := feed_accAfter data m (j := 0) (by decide)
  have h1 : feed (accAfter data (4 * m + 1)) _ 2 = _ := feed_accAfter data m (j := 1) (by decide)
  have h2 : feed (accAfter data (4 * m + 2)) _ 4 = _ := feed_accAfter data m (j := 2) (by decide)
  have h3 : feed (accAfter data (4 * m + 3)) _ 6 = _ := feed_accAfter data m (j := 3) (by decide)
  simp only [scanBytes, scanPairs, h0, h1, h2, h3]
  split_ifs <;> rfl

/-- The scan from byte `m` on finds the first pattern after it (R143, R145, R149). -/
theorem scanBytes_firstPattern {data bs : List Byte} {m : Nat} (h : data.drop m = bs) :
    FirstPattern data (2 * (4 * m)) (scanBytes bs m (accAfter data (4 * m))) := by
  induction bs generalizing m with
  | nil =>
    have hlen : data.length ≤ m := List.drop_eq_nil_iff.1 h
    rintro r hr ⟨-, -, hle, -⟩
    omega
  | cons b bs ih =>
    have hm : m < data.length := by
      have hlen : (data.drop m).length = bs.length + 1 := congrArg List.length h
      rw [List.length_drop] at hlen
      omega
    have hb : data.getD m 0 = b := by simpa using congrArg (·.getD 0 0) h
    have hbs : data.drop (m + 1) = bs := by rw [← List.tail_drop, h, List.tail_cons]
    rw [scanBytes_cons hb]
    exact .compare (by omega) (by omega) <| .compare (by omega) (by omega) <| .compare (by omega) (by omega) <|
      .compare (by omega) (by omega) <| ih hbs

/-! ## The output -/

/-- Bit `b` of an output byte (R147): for `j = 0` the byte itself, else its upper bits and then the successor's lower
ones. -/
theorem getLsbD_realigned (data : List Byte) (i t : Nat) {j b : Nat} (hj : j < 8) (hb : b < 8) :
    (realigned data i j t).getLsbD b = streamBit data (8 * (i + t) + j + b) := by
  unfold realigned streamBit
  split_ifs with h0
  · congr 2 <;> omega
  · rw [BitVec.getLsbD_or, BitVec.getLsbD_ushiftRight, BitVec.getLsbD_shiftLeft, decide_eq_true hb, Bool.true_and]
    by_cases h : j + b < 8
    · rw [decide_eq_true (by omega : b < 8 - j), Bool.not_true, Bool.false_and, Bool.or_false]
      congr 2 <;> omega
    · rw [BitVec.getLsbD_of_ge _ _ (by omega), decide_eq_false (by omega : ¬b < 8 - j), Bool.not_false, Bool.true_and,
        Bool.false_or]
      congr 2 <;> omega

/-- `locateFrame` answers with the first pattern's end, cut into byte and bit number (R146, R148). -/
theorem locateFrame_of_some {data : List Byte} {s : Nat} (h : scanBytes data 0 0 = some s) :
    locateFrame data =
      .ok ((List.range ((8 * data.length - s) / 8)).map (realigned data (s / 8) (s % 8))) ((8 * data.length - s) / 8)
        (s / 8) (s % 8) := by
  rw [locateFrame, h]

theorem locateFrame_of_none {data : List Byte} (h : scanBytes data 0 0 = none) :
    locateFrame data = .framingError := by
  rw [locateFrame, h]

/-- Settles O34: `scanBytes_firstPattern` from the first byte on says where the data start, and `getLsbD_realigned` what
the output's bits are. -/
theorem locateFindsTheFirstPattern : Obligations.LocateFindsTheFirstPattern := by
  intro data
  have hfirst : FirstPattern data 0 (scanBytes data 0 0) := scanBytes_firstPattern (m := 0) rfl
  have hpos {r : Nat} (hp : PatternBefore data r) : 0 < r := by
    obtain ⟨-, h32, -, -⟩ := hp
    omega
  cases hscan : scanBytes data 0 0 with
  | none =>
    rw [hscan] at hfirst
    rw [locateFrame_of_none hscan]
    exact ⟨iff_of_true rfl fun s hp => hfirst s (hpos hp) hp, nofun⟩
  | some s =>
    rw [hscan] at hfirst
    obtain ⟨hp, hmin⟩ := hfirst
    rw [locateFrame_of_some hscan]
    refine ⟨iff_of_false nofun fun hno => hno s hp, ?_⟩
    rintro _ _ _ _ ⟨⟩
    rw [Nat.div_add_mod]
    have hj : s % 8 < 8 := Nat.mod_lt _ (by decide)
    refine ⟨hj, hp, fun r hr hpr => hmin r (hpos hpr) hr hpr, rfl, by simp, fun t b ht hb => ?_⟩
    rw [← getLsbD_realigned data _ t hj hb]
    simp [ht]

/-! ## LOCATE -/

/-- The snapshot of the window (20_memory.md R73) in the statements' words. -/
theorem window_eq_windowBytes (s : State) : s.window = windowBytes s := Memory.slice_eq_map _ _ _

/-- The results of `locateFrame` on a window fit their registers, and `n` counts the output. -/
theorem locateFrame_window_bounds {s : State} {out : List Byte} {n i j : Nat}
    (h : locateFrame s.window = .ok out n i j) : n < 2 ^ 32 ∧ i < 2 ^ 32 ∧ j < 2 ^ 32 ∧ out.length = n := by
  obtain ⟨hj, ⟨-, -, hle, -⟩, -, hn, hout, -⟩ := (locateFindsTheFirstPattern s.window).2 out n i j h
  rw [State.length_window] at hle hn
  have hlen := s.len.isLt
  omega

theorem execLocate_of_not_fits {s : State} (hf : ¬s.windowFits 0) : execLocate s = .next (s.complete .bounds) :=
  State.withWindow_of_not_fits hf _

theorem execLocate_of_framingError {s : State} (hf : s.windowFits 0) (h : locateFrame s.window = .framingError) :
    execLocate s = .next (s.complete .framing) := by
  simp only [execLocate, State.withWindow_of_fits hf, h, State.fail_eq]

theorem execLocate_of_ok {s : State} {out : List Byte} {n i j : Nat} (hf : s.windowFits 0)
    (h : locateFrame s.window = .ok out n i j) :
    execLocate s = .next ((s.putLocated out n i j).complete .noError) := by
  simp only [execLocate, State.withWindow_of_fits hf, h, State.finish_eq]

/-- Settles O37: the window does not fit, or `locateFrame` decides; its output is stored over the window's start. -/
theorem locateRealignsInPlace : Obligations.LocateRealignsInPlace := by
  rintro s ⟨-, -, ⟨hwf, -⟩, -⟩
  rw [← window_eq_windowBytes]
  refine ⟨execLocate_of_not_fits, execLocate_of_framingError, fun out n i j hf hloc => ?_⟩
  obtain ⟨hn, hi, hj, hout⟩ := locateFrame_window_bounds hloc
  exact ⟨_, execLocate_of_ok hf hloc, rfl, ⟨Nat.mod_eq_of_lt hn, Nat.mod_eq_of_lt hi, Nat.mod_eq_of_lt hj⟩, hout,
    Memory.byteAt_putList hwf _ _⟩

end Sys2Proof.Proofs

/-! PROOFS, family 42_crc: the nibble-table CRC is the bit-serial one (42_crc.md R156 to R160), and what `CRCINIT`,
`CRCBYTE`, `GENFCS` and `APPENDFCS` do with it (R163 to R166). -/

namespace Sys2Proof.Proofs

open Sys2Proof.Machine Sys2Proof.Claims

/-! ## The bit step is linear, and a plain shift where no low bit is set -/

theorem ite_xor (p q : Bool) (c : Word) :
    (if p ^^ q then c else 0) = (if p then c else 0) ^^^ (if q then c else 0) := by
  cases p <;> cases q <;> simp

theorem bitStep_xor (x y : Word) : bitStep (x ^^^ y) = bitStep x ^^^ bitStep y := by
  simp only [bitStep, BitVec.getLsbD_xor, ite_xor, BitVec.ushiftRight_xor_distrib]
  ac_rfl

theorem iterate_bitStep_xor (k : Nat) (x y : Word) : bitStep^[k] (x ^^^ y) = bitStep^[k] x ^^^ bitStep^[k] y :=
  Function.Semiconj₂.iterate bitStep_xor k x y

theorem iterate_bitStep_of_low_zero {k : Nat} {x : Word} (h : ∀ i, i < k → x.getLsbD i = false) :
    bitStep^[k] x = x >>> k := by
  induction k generalizing x with
  | zero => rw [Function.iterate_zero_apply, BitVec.ushiftRight_zero]
  | succ k ih =>
    have hstep : bitStep x = x >>> 1 := by
      rw [bitStep, h 0 k.succ_pos, if_neg Bool.false_ne_true]
      exact BitVec.xor_zero
    have hlow (i : Nat) (hi : i < k) : (x >>> 1).getLsbD i = false := by
      rw [BitVec.getLsbD_ushiftRight]
      exact h (1 + i) (by omega)
    rw [Function.iterate_succ_apply, hstep, ih hlow, ← BitVec.shiftRight_add, Nat.add_comm]

theorem iterate_bitStep_shiftLeft {x : Word} (hx : x.toNat < 2 ^ 28) : bitStep^[4] (x <<< 4) = x := by
  rw [iterate_bitStep_of_low_zero fun i hi => by simp [BitVec.getLsbD_shiftLeft, hi]]
  bv_omega

/-! ## A nibble of the table is four bit steps, a byte is eight -/

/-- Every entry of `CRC_TABLE` is its index advanced by four bit steps (R157). -/
theorem crcEntry_eq_iterate_bitStep : ∀ n : BitVec 4, crcEntry n = bitStep^[4] (n.setWidth 32) := by decide

theorem shiftLeft_xor_nibble (r : Word) : r >>> 4 <<< 4 ^^^ (r.extractLsb' 0 4).setWidth 32 = r := by
  refine BitVec.eq_of_getLsbD_eq fun i hi => ?_
  by_cases h : i < 4
  · simp [h, hi]
  · simp [h, hi, Nat.add_sub_of_le (not_lt.1 h)]

theorem nibble_xor_shiftLeft (b : Byte) :
    (b.extractLsb' 0 4).setWidth 32 ^^^ ((b.extractLsb' 4 4).setWidth 32 <<< 4 : Word) = b.setWidth 32 := by
  revert b
  decide

/-- The nibble step of R156: the register's upper bits only shift, its low nibble goes through the table. -/
theorem crcNibble_eq_iterate_bitStep (r : Word) (n : BitVec 4) :
    crcNibble r n = bitStep^[4] (r ^^^ n.setWidth 32) := by
  have hhigh : bitStep^[4] (r >>> 4 <<< 4) = r >>> 4 := iterate_bitStep_shiftLeft (by bv_omega)
  calc crcNibble r n
      = bitStep^[4] (r >>> 4 <<< 4) ^^^ bitStep^[4] ((r.extractLsb' 0 4 ^^^ n).setWidth 32) := by
        rw [crcNibble, crcEntry_eq_iterate_bitStep, hhigh]
    _ = bitStep^[4] (r ^^^ n.setWidth 32) := by
        rw [← iterate_bitStep_xor, BitVec.setWidth_xor, ← BitVec.xor_assoc, shiftLeft_xor_nibble]

/-- The byte step of R159: the high nibble has only been shifted when its own four bit steps begin. -/
theorem crcRaw_eq_iterate_bitStep (r : Word) (b : Byte) : crcRaw r b = bitStep^[8] (r ^^^ b.setWidth 32) := by
  have hhigh : bitStep^[4] ((b.extractLsb' 4 4).setWidth 32 <<< 4 : Word) = (b.extractLsb' 4 4).setWidth 32 :=
    iterate_bitStep_shiftLeft (by bv_omega)
  rw [crcRaw, crcNibble_eq_iterate_bitStep, crcNibble_eq_iterate_bitStep, ← hhigh, ← iterate_bitStep_xor,
    BitVec.xor_assoc, nibble_xor_shiftLeft, ← Function.iterate_add_apply]

theorem crcByte_eq_iterate_bitStep (c : Word) (b : Byte) :
    crcByte c b = bitStep^[8] ((c ^^^ 0xFFFFFFFF) ^^^ b.setWidth 32) ^^^ 0xFFFFFFFF := by
  rw [crcByte, crcRaw_eq_iterate_bitStep]

/-! ## The function `fcs` -/

/-- The finished value is the raw register's complement after every byte. -/
theorem fcs_eq_fcsBitSerial (data : List Byte) : fcs data = fcsBitSerial data :=
  List.foldl_hom (· ^^^ crcOnes) (init := crcOnes) fun r b => by
    rw [crcByte, BitVec.xor_assoc r, BitVec.xor_self, BitVec.xor_zero, crcRaw_eq_iterate_bitStep]

/-- Settles O32: `fcs` is a fold, so it continues over a concatenation, and `fcs_eq_fcsBitSerial`. -/
theorem nibbleFcsIsBitSerialCrc : Obligations.NibbleFcsIsBitSerialCrc :=
  ⟨rfl, fun _ _ => List.foldl_append, fcs_eq_fcsBitSerial⟩

/-! ## The commands -/

theorem execCrcinit_eq (s : State) : execCrcinit s = .next (ended { s with crc := 0 } .noError) := rfl

theorem execCrcbyte_eq (b : Byte) (s : State) :
    execCrcbyte b s = .next (ended { s with crc := crcByte s.crc b } .noError) := rfl

theorem ended_noError (s : State) :
    ended s .noError = { s with busy := false, done := true, ok := true, err := .noError } := by
  simp [ended]

/-- Settles O28: the two commands' own assignment, then `complete(0)`; the byte step is `crcByte_eq_iterate_bitStep`. -/
theorem rollingCrcCommands : Obligations.RollingCrcCommands := by
  refine fun s => ⟨(execCrcinit_eq s).trans ?_, fun b => (execCrcbyte_eq b s).trans ?_⟩
  · rw [ended_noError]
  · rw [ended_noError, crcByte_eq_iterate_bitStep]

theorem execGenfcs_of_fits {s : State} (h : Fits s 0) :
    execGenfcs s = .next (ended { s with crc := fcs (windowBytes s) } .noError) := by
  rw [← window_eq_windowBytes]
  exact State.withWindow_of_fits h _

theorem execGenfcs_of_not_fits {s : State} (h : ¬Fits s 0) : execGenfcs s = .next (ended s .bounds) :=
  State.withWindow_of_not_fits h _

/-- Settles O29: the window does not fit, or its check sequence is computed, bit by bit by `fcs_eq_fcsBitSerial`. -/
theorem genfcsComputesTheWindowFcs : Obligations.GenfcsComputesTheWindowFcs := by
  intro s
  rw [← fcs_eq_fcsBitSerial]
  exact ⟨execGenfcs_of_not_fits, execGenfcs_of_fits⟩

theorem execAppendfcs_of_fits {s : State} (h : Fits s 4) :
    execAppendfcs s = .next (ended
      { s with
        mem := s.mem.write (s.base.toNat + s.len.toNat) .four (fcs (windowBytes s))
        crc := fcs (windowBytes s)
        len := BitVec.ofNat 32 (s.len.toNat + 4) } .noError) := by
  rw [← window_eq_windowBytes, BitVec.ofNat_add, BitVec.ofNat_toNat, BitVec.setWidth_eq]
  exact State.withWindow_of_fits h _

theorem execAppendfcs_of_not_fits {s : State} (h : ¬Fits s 4) : execAppendfcs s = .next (ended s .bounds) :=
  State.withWindow_of_not_fits h _

/-- A word written at `a` stands there as its four bytes (00_scope.md R14, 42_crc.md R161). -/
theorem stored_write_four {m : Memory} (h : m.wf = true) (a : Nat) (c : Word) :
    Stored m (m.write a .four c) a (leFour c) :=
  Memory.byteAt_write h a .four c

/-- Settles O30: there is no room for the check sequence, or it is written behind the window; `LEN + 4` does not wrap,
because `MEM` has at most `2^31` bytes (00_scope.md R8). -/
theorem appendfcsAppendsTheFcs : Obligations.AppendfcsAppendsTheFcs := by
  rintro s ⟨⟨-, -, hsize, -⟩, -, ⟨hwf, -⟩, -⟩
  refine ⟨execAppendfcs_of_not_fits, fun hfits => ?_⟩
  have hroom : s.base.toNat + s.len.toNat + 4 ≤ s.cfg.memSize := hfits
  have hlen : s.len.toNat + 4 < 2 ^ 32 := by omega
  exact ⟨_, execAppendfcs_of_fits hfits, rfl, Nat.mod_eq_of_lt hlen, stored_write_four hwf _ _⟩

end Sys2Proof.Proofs

/-! PROOFS, family 43_framelen: the boundary detector finds the first candidate end that matches (43_framelen.md R176,
R178), and what `DETLEN` (R180), `VALIDATE` (R182, R183) and the drop counter (R184) make of it. -/

namespace Sys2Proof.Proofs

open Sys2Proof.Machine Sys2Proof.Claims

/-! ## The boundary detector

The candidate loop carries `fcs` of the bytes it has passed, so it is a search for the first index at which
`SelfMatches` holds. With the bytes passed split off in front, one turn of the loop moves one byte over to them. -/

/-- `SelfMatches` as a test. -/
def selfMatchesTest (data : List Byte) (k : Nat) : Bool := (data.drop k).take 4 == leFour (fcs (data.take k))

theorem selfMatchesTest_iff {data : List Byte} {k : Nat} : selfMatchesTest data k = true ↔ SelfMatches data k :=
  beq_iff_eq

/-- What the detector returns once the search for the payload length has ended (R176). -/
def boundedAt (data : List Byte) : Option Nat → Bounded
  | none => .fcsMismatch
  | some l => .ok l (fcs (data.take l))

theorem boundedAt_eq_ok_iff {data : List Byte} {o : Option Nat} {l : Nat} {c : Word} :
    boundedAt data o = .ok l c ↔ o = some l ∧ c = fcs (data.take l) := by
  cases o with
  | none => simp [boundedAt]
  | some k =>
    simp only [boundedAt, Bounded.ok.injEq, Option.some.injEq]
    exact ⟨fun ⟨hk, hc⟩ => ⟨hk, hk ▸ hc.symm⟩, fun ⟨hk, hc⟩ => ⟨hk, hk ▸ hc.symm⟩⟩

theorem boundedAt_eq_fcsMismatch_iff {data : List Byte} {o : Option Nat} :
    boundedAt data o = .fcsMismatch ↔ o = none := by
  cases o <;> simp [boundedAt]

theorem selfMatches_append_length (pre rest : List Byte) :
    SelfMatches (pre ++ rest) pre.length ↔ rest.take 4 = leFour (fcs pre) := by
  simp [SelfMatches]

theorem not_selfMatches_of_length_le {data : List Byte} {k : Nat} (h : data.length ≤ k) : ¬SelfMatches data k := by
  simp [SelfMatches, List.drop_of_length_le h, leFour]

/-- The model's check sequence in `MEM` is that of the statements (42_crc.md R161). -/
theorem le4_eq_leFour (c : Word) : le4 c = leFour c := rfl

/-- The candidate loop, after the bytes `pre`, searches the next `n` candidates in order. -/
theorem scanEnds_eq_boundedAt (n : Nat) (pre rest : List Byte) :
    scanEnds n rest pre.length (fcs pre) =
      boundedAt (pre ++ rest) ((List.range' pre.length n).find? (selfMatchesTest (pre ++ rest))) := by
  induction n generalizing pre rest with
  | zero => rfl
  | succ n ih =>
    unfold scanEnds
    rw [le4_eq_leFour, List.range'_succ, List.find?_cons]
    by_cases hm : rest.take 4 = leFour (fcs pre)
    · have htest : selfMatchesTest (pre ++ rest) pre.length = true :=
        selfMatchesTest_iff.2 ((selfMatches_append_length pre rest).2 hm)
      rw [if_pos hm, htest]
      simp [boundedAt]
    · have htest : selfMatchesTest (pre ++ rest) pre.length = false :=
        Bool.eq_false_iff.2 fun h => hm ((selfMatches_append_length pre rest).1 (selfMatchesTest_iff.1 h))
      rw [if_neg hm, htest]
      cases rest with
      | nil =>
        refine (boundedAt_eq_fcsMismatch_iff.2 (List.find?_eq_none.2 fun j hj => ?_)).symm
        have hj : pre.length + 1 ≤ j := (List.mem_range'_1.1 hj).1
        exact fun h => not_selfMatches_of_length_le (by simp; omega) (selfMatchesTest_iff.1 h)
      | cons b bs =>
        have hfcs : fcs (pre ++ [b]) = crcByte (fcs pre) b := List.foldl_concat ..
        have hturn := ih (pre ++ [b]) bs
        rw [List.length_append, List.length_singleton, List.append_assoc, List.singleton_append, hfcs] at hturn
        exact hturn

theorem determineLength_eq_boundedAt (data : List Byte) (m : Nat) :
    determineLength data m = boundedAt data ((List.range (m - 3)).find? (selfMatchesTest data)) := by
  rw [List.range_eq_range']
  exact scanEnds_eq_boundedAt (m - 3) [] data

/-- Settles O38: the detector is the search of `determineLength_eq_boundedAt`, whose candidates `k` below `m - 3` are
those with `k + 4` at most `m`. -/
theorem detectorReturnsTheFirstMatch : Obligations.DetectorReturnsTheFirstMatch := by
  intro data m _
  rw [determineLength_eq_boundedAt, boundedAt_eq_fcsMismatch_iff, List.find?_range_eq_none]
  refine ⟨fun l c => ?_, ?_⟩
  · have hl : l < m - 3 ↔ l + 4 ≤ m := by omega
    rw [boundedAt_eq_ok_iff, List.find?_range_eq_some]
    simp only [List.mem_range, Bool.not_eq_true', Bool.eq_false_iff, ne_eq, selfMatchesTest_iff, hl]
    tauto
  · have hk (k : Nat) : k < m - 3 ↔ k + 4 ≤ m := by omega
    simp only [Bool.not_eq_true', Bool.eq_false_iff, ne_eq, selfMatchesTest_iff, hk]

/-! ## DETLEN -/

theorem length_windowBytes (s : State) : (windowBytes s).length = s.len.toNat := by
  rw [← window_eq_windowBytes, State.length_window]

theorem execDetlen_of_not_fits {s : State} (hf : ¬Fits s 0) : execDetlen s = .next (ended s .bounds) :=
  State.withWindow_of_not_fits hf _

theorem execDetlen_of_fcsMismatch {s : State} (hf : Fits s 0)
    (h : determineLength (windowBytes s) (min s.len.toNat s.maxLen.toNat) = .fcsMismatch) :
    execDetlen s = .next (ended s .fcs) := by
  rw [← window_eq_windowBytes] at h
  rw [execDetlen, State.withWindow_of_fits hf, State.scanBound, h]
  rfl

theorem execDetlen_of_ok {s : State} {l : Nat} {c : Word} (hf : Fits s 0)
    (h : determineLength (windowBytes s) (min s.len.toNat s.maxLen.toNat) = .ok l c) :
    execDetlen s = .next (ended { s with len := BitVec.ofNat 32 l, crc := c } .noError) := by
  rw [← window_eq_windowBytes] at h
  rw [execDetlen, State.withWindow_of_fits hf, State.scanBound, h]
  rfl

/-- Settles O39: the window does not fit, or the detector decides as O38 says. -/
theorem detlenSetsTheLength : Obligations.DetlenSetsTheLength := by
  intro s
  obtain ⟨hok, hmismatch⟩ := detectorReturnsTheFirstMatch (windowBytes s) (min s.len.toNat s.maxLen.toNat)
    ((length_windowBytes s).symm ▸ min_le_left _ _)
  exact ⟨execDetlen_of_not_fits, fun hf hno => execDetlen_of_fcsMismatch hf (hmismatch.2 hno),
    fun l hf hl hmatch hfirst => execDetlen_of_ok hf ((hok l _).2 ⟨hl, rfl, hmatch, hfirst⟩)⟩

/-! ## VALIDATE from its length test on -/

theorem validateAligned_of_short {s : State} {data : List Byte} (h : data.length < 4) :
    s.validateAligned data = .next (ended { s with drops := s.drops + 1 } .short) := if_pos h

theorem validateAligned_of_fcsMismatch {s : State} {data : List Byte} (h : 4 ≤ data.length)
    (hd : determineLength data (min data.length s.maxLen.toNat) = .fcsMismatch) :
    s.validateAligned data = .next (ended { s with drops := s.drops + 1 } .fcs) := by
  rw [State.validateAligned, if_neg h.not_gt, State.scanBound, hd]
  rfl

theorem validateAligned_of_ok {s : State} {data : List Byte} {l : Nat} {c : Word} (h : 4 ≤ data.length)
    (hd : determineLength data (min data.length s.maxLen.toNat) = .ok l c) :
    s.validateAligned data = .next (ended { s with len := BitVec.ofNat 32 l, crc := c } .noError) := by
  rw [State.validateAligned, if_neg h.not_gt, State.scanBound, hd]
  rfl

/-- The stages after alignment always answer. -/
theorem validateAligned_ends (s : State) (data : List Byte) : ∃ t, s.validateAligned data = .next t := by
  rcases lt_or_ge data.length 4 with h | h
  · exact ⟨_, validateAligned_of_short h⟩
  · cases hd : determineLength data (min data.length s.maxLen.toNat) with
    | fcsMismatch => exact ⟨_, validateAligned_of_fcsMismatch h hd⟩
    | ok l c => exact ⟨_, validateAligned_of_ok h hd⟩

/-- They write no byte, and the drop counter counts their failures (R184). -/
theorem validateAligned_mem_drops {s t : State} {data : List Byte} (h : s.validateAligned data = .next t) :
    t.mem = s.mem ∧ t.drops = if t.err ∈ [ErrCode.framing, .short, .fcs] then s.drops + 1 else s.drops := by
  rcases State.validateAligned_next h with ⟨-, rfl⟩ | ⟨-, -, rfl⟩ | ⟨l, c, -, -, rfl⟩
  all_goals simp

/-! ## VALIDATE -/

theorem execValidate_of_not_fits {s : State} (hf : ¬Fits s 0) : execValidate s = .next (ended s .bounds) :=
  State.withWindow_of_not_fits hf _

theorem execValidate_of_framingError {s : State} (hf : Fits s 0) (ha : s.alignEn = true)
    (h : locateFrame (windowBytes s) = .framingError) :
    execValidate s = .next (ended { s with drops := s.drops + 1 } .framing) := by
  rw [← window_eq_windowBytes] at h
  rw [execValidate, State.withWindow_of_fits hf, if_pos ha, h]
  rfl

theorem execValidate_of_located {s : State} {out : List Byte} {n i j : Nat} (hf : Fits s 0) (ha : s.alignEn = true)
    (h : locateFrame (windowBytes s) = .ok out n i j) :
    execValidate s = (s.putLocated out n i j).validateAligned out := by
  rw [← window_eq_windowBytes] at h
  rw [execValidate, State.withWindow_of_fits hf, if_pos ha, h]

theorem execValidate_of_unaligned {s : State} (hf : Fits s 0) (ha : s.alignEn = false) :
    execValidate s = s.validateAligned (windowBytes s) := by
  rw [execValidate, State.withWindow_of_fits hf, if_neg (Bool.eq_false_iff.1 ha), window_eq_windowBytes]

/-- Settles O40: alignment fails, or the length test and the detector judge the realigned bytes, which already stand in
`MEM`, or without alignment the window itself. -/
theorem validateOutcomes : Obligations.ValidateOutcomes := by
  rintro s ⟨-, -, ⟨hwf, -⟩, -⟩
  refine ⟨execValidate_of_not_fits, execValidate_of_framingError, fun out n i j hf ha hloc => ?_, fun hf ha => ?_⟩
  · obtain ⟨-, -, -, rfl⟩ := locateFrame_window_bounds ((window_eq_windowBytes s).symm ▸ hloc)
    obtain ⟨t, ht⟩ := validateAligned_ends (s.putLocated out out.length i j) out
    have hmem : t.mem = s.mem.putList s.base.toNat out := (validateAligned_mem_drops ht).1
    have his {u : State} (hu : (s.putLocated out out.length i j).validateAligned out = .next u) : t = u :=
      Host.Outcome.next.inj (ht.symm.trans hu)
    refine ⟨t, (execValidate_of_located hf ha hloc).trans ht, ?_⟩
    rw [hmem]
    exact ⟨Memory.byteAt_putList hwf _ _,
      fun hn => his (validateAligned_of_short hn),
      fun hn hd => his (validateAligned_of_fcsMismatch hn hd),
      fun l c hn hd => his (validateAligned_of_ok hn hd)⟩
  · have hrun : exec .validate s = s.validateAligned (windowBytes s) := execValidate_of_unaligned hf ha
    rw [hrun, ← length_windowBytes]
    exact ⟨validateAligned_of_short, validateAligned_of_fcsMismatch, fun _ _ => validateAligned_of_ok⟩

/-! ## The drop counter -/

theorem execValidate_drops {s t : State} (h : execValidate s = .next t) :
    t.drops = if t.err ∈ [ErrCode.framing, .short, .fcs] then s.drops + 1 else s.drops := by
  rcases execValidate_next h with ⟨-, rfl⟩ | ⟨-, -, -, rfl⟩ | ⟨out, n, i, j, -, -, -, h⟩ | ⟨-, -, h⟩
  · simp
  · simp
  · exact (validateAligned_mem_drops h).2
  · exact (validateAligned_mem_drops h).2

theorem execQreserve_drops {s t : State} (h : execQreserve s = .next t) : t.drops = s.drops := by
  rcases execQreserve_next h with
    ⟨-, -, rfl⟩ | ⟨-, -, -, rfl⟩ | ⟨-, -, rfl⟩ | ⟨-, -, -, rfl⟩ | ⟨off, pad, -, -, -, -, rfl⟩
  case inr.inr.inr.inr =>
    obtain ⟨m, hm⟩ := s.padTail_eq_setMem pad
    simp [hm, State.setMem_reserved_eq]
  all_goals simp [State.reserved_eq]

/-- No command but `VALIDATE` touches `DROPS`. -/
theorem exec_drops_of_ne_validate {i : Instr} {s t : State} (hi : i ≠ .validate) (h : exec i s = .next t) :
    t.drops = s.drops := by
  cases i with
  | nop => simp [execNop_next h]
  | locate =>
    rcases execLocate_next h with ⟨-, rfl⟩ | ⟨-, -, rfl⟩ | ⟨out, n, i, j, -, -, rfl⟩ <;>
      simp [State.putLocated_eq]
  | genfcs => rcases execGenfcs_next h with ⟨-, rfl⟩ | ⟨-, rfl⟩ <;> simp
  | detlen => rcases execDetlen_next h with ⟨-, rfl⟩ | ⟨-, -, rfl⟩ | ⟨l, c, -, -, rfl⟩ <;> simp
  | validate => exact absurd rfl hi
  | appendfcs => rcases execAppendfcs_next h with ⟨-, rfl⟩ | ⟨-, rfl⟩ <;> simp
  | crcinit => simp [execCrcinit_next h]
  | crcbyte b => simp [execCrcbyte_next h]
  | qinit => rcases execQinit_next h with ⟨-, rfl⟩ | ⟨-, -, rfl⟩ <;> simp
  | qreserve => exact execQreserve_drops h
  | qcommit =>
    rcases execQcommit_next h with ⟨-, rfl⟩ | ⟨-, -, -, rfl⟩ | ⟨-, -, -, -, rfl⟩ | ⟨-, -, -, -, -, rfl⟩ <;>
      simp [State.committed_eq]
  | qpeek => rcases execQpeek_next h with ⟨-, rfl⟩ | ⟨-, -, rfl⟩ | ⟨-, -, rfl⟩ <;> simp
  | qconsume =>
    rcases execQconsume_next h with ⟨-, rfl⟩ | ⟨-, -, rfl⟩ | ⟨-, -, -, rfl⟩ | ⟨-, -, -, rfl⟩ <;> simp

/-- Settles O26: a halted or illegal command fails with another code, and of the commands that run only `VALIDATE`
touches the counter. -/
theorem dropsCountsFailedValidates : Obligations.DropsCountsFailedValidates := by
  rintro s t rest ⟨horder, hb⟩ hstep
  rw [step_engine horder] at hstep
  rcases engineTurn_next hstep with ⟨hidle, -⟩ | ⟨-, -, rfl⟩ | ⟨-, -, -, rfl⟩ | ⟨i, -, -, hd, hrun⟩
  · exact absurd (hidle.symm.trans hb) Bool.false_ne_true
  · simp
  · simp
  · have hd : decode s.cfg.hasRpq s.pend = .instr i := hd
    by_cases hi : i = .validate
    · subst hi
      simpa [hd] using execValidate_drops hrun
    · simpa [hd, hi] using exec_drops_of_ne_validate hi hrun

end Sys2Proof.Proofs

/-! PROOFS, family 44_system: `NOP` (44_system.md R195). -/

namespace Sys2Proof.Proofs

open Sys2Proof.Machine Sys2Proof.Claims

/-- `NOP` is `complete(0)` and no assignment of its own. -/
theorem execNop_eq (s : State) : execNop s = .next (ended s .noError) := by
  rw [execNop, State.finish_eq, complete_eq_ended]

/-- Settles O27: `ended_noError` says which fields a completion without error sets; `FATAL` is not among them. -/
theorem nopCompletes : Obligations.NopCompletes := by
  intro s
  rw [← ended_noError]
  exact execNop_eq s

end Sys2Proof.Proofs

/-! PROOFS, family 60_exceptions: what a failing command leaves (60_exceptions.md R208), the fatal error (R211) and the
interrupt level (R216). -/

namespace Sys2Proof.Proofs

open Sys2Proof.Machine Sys2Proof.Claims

/-! ## How a command ends

Said once for all thirteen commands: the code is one of the command's own, and a failure has changed nothing but
`STATUS`, the failures of `VALIDATE` that count a drop apart (R208, 43_framelen.md R183). -/

/-- The command `i`, run on `s`, ends in the given state. -/
inductive EndsIn (i : Instr) (s : State) : State → Prop
  /-- no error, after assignments that never reach `CTRL.IRQ_EN` -/
  | success {u : State} (hirq : u.irqEn = s.irqEn := by rfl) : EndsIn i s (u.complete .noError)
  /-- `complete` alone; of `VALIDATE`'s failures only the bounds check ends so -/
  | statusOnly {e : ErrCode} (hcode : e ∈ ownCodes i := by decide)
      (hvalidate : i = .validate → e = .bounds := by decide) : EndsIn i s (s.complete e)
  /-- `VALIDATE` fails, with no frame found or none looked for -/
  | dropped {e : ErrCode} (hi : i = .validate) (he : e ∈ [ErrCode.framing, .short, .fcs])
      (hkept : e = .framing ∨ s.alignEn = false) : EndsIn i s (s.bumpDrops.complete e)
  /-- `VALIDATE` fails on the realigned bytes -/
  | droppedRealigned {e : ErrCode} {out : List Byte} {n k j : Nat} (hi : i = .validate)
      (he : e ∈ [ErrCode.short, .fcs]) (halign : s.alignEn = true)
      (hloc : locateFrame s.window = .ok out n k j) : EndsIn i s ((s.putLocated out n k j).bumpDrops.complete e)

theorem execValidate_endsIn {s t : State} (h : execValidate s = .next t) : EndsIn .validate s t := by
  rcases execValidate_next h with ⟨-, rfl⟩ | ⟨-, -, -, rfl⟩ | ⟨out, n, k, j, -, ha, hloc, h⟩ | ⟨-, ha, h⟩
  · exact .statusOnly
  · exact .dropped rfl (by decide) (.inl rfl)
  · rcases State.validateAligned_next h with ⟨-, rfl⟩ | ⟨-, -, rfl⟩ | ⟨l, c, -, -, rfl⟩
    · exact .droppedRealigned rfl (by decide) ha hloc
    · exact .droppedRealigned rfl (by decide) ha hloc
    · exact .success
  · rcases State.validateAligned_next h with ⟨-, rfl⟩ | ⟨-, -, rfl⟩ | ⟨l, c, -, -, rfl⟩
    · exact .dropped rfl (by decide) (.inr ha)
    · exact .dropped rfl (by decide) (.inr ha)
    · exact .success

theorem execQreserve_endsIn {s t : State} (h : execQreserve s = .next t) : EndsIn .qreserve s t := by
  rcases execQreserve_next h with
    ⟨-, -, rfl⟩ | ⟨-, -, -, rfl⟩ | ⟨-, -, rfl⟩ | ⟨-, -, -, rfl⟩ | ⟨off, pad, -, -, -, -, rfl⟩
  · exact .statusOnly
  · exact .success (by rw [State.reserved_eq])
  · exact .statusOnly
  · exact .statusOnly
  · obtain ⟨m, hm⟩ := s.padTail_eq_setMem pad
    exact .success (by rw [hm, State.setMem_reserved_eq])

/-- Every answer of a command is one of these ends. -/
theorem exec_endsIn {i : Instr} {s t : State} (h : exec i s = .next t) : EndsIn i s t := by
  cases i with
  | nop => exact execNop_next h ▸ .statusOnly
  | locate =>
    rcases execLocate_next h with ⟨-, rfl⟩ | ⟨-, -, rfl⟩ | ⟨out, n, k, j, -, -, rfl⟩
    exacts [.statusOnly, .statusOnly, .success]
  | genfcs =>
    rcases execGenfcs_next h with ⟨-, rfl⟩ | ⟨-, rfl⟩
    exacts [.statusOnly, .success]
  | detlen =>
    rcases execDetlen_next h with ⟨-, rfl⟩ | ⟨-, -, rfl⟩ | ⟨l, c, -, -, rfl⟩
    exacts [.statusOnly, .statusOnly, .success]
  | validate => exact execValidate_endsIn h
  | appendfcs =>
    rcases execAppendfcs_next h with ⟨-, rfl⟩ | ⟨-, rfl⟩
    exacts [.statusOnly, .success]
  | crcinit => exact execCrcinit_next h ▸ .success
  | crcbyte b => exact execCrcbyte_next h ▸ .success
  | qinit =>
    rcases execQinit_next h with ⟨-, rfl⟩ | ⟨-, -, rfl⟩
    exacts [.statusOnly, .success]
  | qreserve => exact execQreserve_endsIn h
  | qcommit =>
    rcases execQcommit_next h with ⟨-, rfl⟩ | ⟨-, -, -, rfl⟩ | ⟨-, -, -, -, rfl⟩ | ⟨-, -, -, -, -, rfl⟩
    exacts [.statusOnly, .statusOnly, .statusOnly, .success]
  | qpeek =>
    rcases execQpeek_next h with ⟨-, rfl⟩ | ⟨-, -, rfl⟩ | ⟨-, -, rfl⟩
    exacts [.success, .statusOnly, .success]
  | qconsume =>
    rcases execQconsume_next h with ⟨-, rfl⟩ | ⟨-, -, rfl⟩ | ⟨-, -, -, rfl⟩ | ⟨-, -, -, rfl⟩
    exacts [.statusOnly, .success, .statusOnly, .success]

theorem noError_mem_ownCodes (i : Instr) : ErrCode.noError ∈ ownCodes i := by cases i <;> exact List.mem_cons_self

/-- A command's code is one of its own (60_exceptions.md R205). -/
theorem EndsIn.err_mem_ownCodes {i : Instr} {s t : State} (h : EndsIn i s t) : t.err ∈ ownCodes i := by
  have hall : [ErrCode.framing, .short, .fcs] ⊆ ownCodes .validate := by decide
  cases h with
  | success _ => exact noError_mem_ownCodes i
  | statusOnly hcode _ => exact hcode
  | dropped hi he _ => exact hi ▸ hall he
  | droppedRealigned hi he _ _ => exact hi ▸ hall (List.mem_cons_of_mem _ he)

/-- Only the prologue halts a command or finds its word illegal (30_encoding.md R100). -/
theorem EndsIn.err_not_mem_prologue_codes {i : Instr} {s t : State} (h : EndsIn i s t) :
    t.err ∉ [ErrCode.halted, .illcmd] := by
  have hnot : ∀ e ∈ [ErrCode.halted, .illcmd], e ∉ ownCodes i := by cases i <;> simp [ownCodes]
  exact fun he => hnot _ he h.err_mem_ownCodes

/-! ## What a failing command leaves -/

/-- The step of a halted or illegal command is its completion. -/
theorem step_eq_ended_of_prologue_code {s t : State} {rest : List Event} (hdue : EngineDue s rest)
    (hstep : step s = .next t) (he : t.err ∈ [ErrCode.halted, .illcmd]) : t = ended (begun s rest) t.err := by
  obtain ⟨horder, hb⟩ := hdue
  rw [step_engine horder] at hstep
  rcases engineTurn_next hstep with ⟨hidle, -⟩ | ⟨-, -, rfl⟩ | ⟨-, -, -, rfl⟩ | ⟨i, -, -, -, hrun⟩
  · exact absurd (hidle.symm.trans hb) Bool.false_ne_true
  · rfl
  · rfl
  · exact absurd he (exec_endsIn hrun).err_not_mem_prologue_codes

/-- A failure that counts no drop changes nothing but `STATUS`. -/
theorem EndsIn.eq_ended {i : Instr} {s t : State} (h : EndsIn i s t) (hfail : t.err ≠ .noError)
    (hdrop : i = .validate → t.err ∉ [ErrCode.framing, .short, .fcs]) : t = ended s t.err := by
  cases h with
  | success _ => exact absurd rfl hfail
  | statusOnly _ _ => rfl
  | dropped hi he _ => exact absurd he (hdrop hi)
  | droppedRealigned hi he _ _ => exact absurd (List.mem_cons_of_mem _ he) (hdrop hi)

/-- Where no frame was found or none looked for, a failing `VALIDATE` only counts the drop. -/
theorem EndsIn.eq_ended_drops {s t : State} (h : EndsIn .validate s t)
    (he : t.err = .framing ∨ t.err ∈ [ErrCode.short, .fcs] ∧ s.alignEn = false) :
    t = ended { s with drops := s.drops + 1 } t.err := by
  cases h with
  | success _ => simp at he
  | statusOnly _ hv => simp [hv rfl] at he
  | dropped _ _ _ => rfl
  | droppedRealigned _ hcode halign _ =>
    simp only [List.mem_cons, List.not_mem_nil, or_false] at hcode
    rcases hcode with rfl | rfl <;> simp [halign] at he

/-- A `VALIDATE` that fails after `locateFrame` has found a frame keeps the realigned bytes (R183). -/
theorem EndsIn.realigned {s t : State} (h : EndsIn .validate s t) (he : t.err ∈ [ErrCode.short, .fcs])
    (halign : s.alignEn = true) :
    ∃ out n k j, locateFrame s.window = .ok out n k j ∧ t = (s.putLocated out n k j).bumpDrops.complete t.err := by
  cases h with
  | success _ => simp at he
  | statusOnly _ hv => simp [hv rfl] at he
  | dropped _ _ hkept =>
    rcases hkept with rfl | hoff
    · simp at he
    · exact absurd (hoff.symm.trans halign) Bool.false_ne_true
  | droppedRealigned _ _ _ hloc => exact ⟨_, _, _, _, hloc, rfl⟩

/-- Settles O22: every answer of a command is one of the ends of `EndsIn`, whose failures change nothing but `STATUS`
unless `VALIDATE` counts a drop; the realigned bytes stand where `putList` stores them. -/
theorem failingCommandsLeaveTheRest : Obligations.FailingCommandsLeaveTheRest := by
  refine ⟨fun s t rest => step_eq_ended_of_prologue_code, fun i s t hrun => ?_⟩
  have hend := exec_endsIn hrun
  refine ⟨fun he => ?_, fun hi hfail => hend.eq_ended hfail fun hv => absurd hv hi, ?_, ?_⟩
  · have hcodes : ∀ e ∈ [ErrCode.bounds, .badArg, .alloc, .prog],
        e ≠ .noError ∧ e ∉ [ErrCode.framing, .short, .fcs] := by decide
    obtain ⟨hfail, hdrop⟩ := hcodes _ he
    exact hend.eq_ended hfail fun _ => hdrop
  · rintro rfl
    exact hend.eq_ended_drops
  · rintro rfl he halign ⟨-, -, ⟨hwf, -⟩, -⟩
    obtain ⟨out, n, k, j, hloc, ht⟩ := hend.realigned he halign
    have hmem : t.mem = s.mem.putList s.base.toNat out := congrArg State.mem ht
    rw [window_eq_windowBytes] at hloc
    rw [hmem]
    exact ⟨out, n, k, j, hloc, Memory.byteAt_putList hwf _ _, ht⟩

/-! ## The fatal error -/

/-- `s` with another `FATAL` and another bus answer. -/
def withFatal (s : State) (f : Bool) (a : Option Answer) : State := { s with fatal := f, answer := a }

theorem withFatal_busy (s : State) (f : Bool) (a : Option Answer) : (withFatal s f a).busy = s.busy := rfl

theorem storeReg_withFatal (s : State) (f : Bool) (a : Option Answer) (v : Word) (r : Option RegName) :
    (withFatal s f a).storeReg v r = withFatal (s.storeReg v r) f a := by
  cases r with
  | none => rfl
  | some r => cases r <;> rfl

theorem writeReg_withFatal (s : State) (f : Bool) (a : Option Answer) (v : Word) (r : Option RegName) :
    (withFatal s f a).writeReg r v = withFatal (s.writeReg r v) f (some .completed) := by
  rw [State.writeReg, State.writeReg, storeReg_withFatal, withFatal_busy]
  split <;> rfl

theorem writeMem_withFatal (s : State) (f : Bool) (a : Option Answer) (x : Nat) (n : Size) (v : Word) :
    (withFatal s f a).writeMem x n v = withFatal (s.writeMem x n v) f (some .completed) := by
  rw [State.writeMem, State.writeMem, withFatal_busy]
  split <;> rfl

theorem readMem_withFatal (s : State) (f : Bool) (a : Option Answer) (x : Nat) (n : Size) :
    ∃ a', (withFatal s f a).readMem x n = withFatal (s.readMem x n) f a' := by
  rw [State.readMem, State.readMem, withFatal_busy]
  split <;> exact ⟨_, rfl⟩

theorem readReg_withFatal (s : State) (f : Bool) (a : Option Answer) (r : Option RegName) :
    ∃ a', (withFatal s f a).readReg r = withFatal (s.readReg r) f a' := by
  rw [State.readReg, State.readReg, withFatal_busy]
  split <;> exact ⟨_, rfl⟩

/-- What a transaction does, but for its answer, does not depend on `FATAL` (R211). -/
theorem transact_withFatal (s : State) (f : Bool) (a : Option Answer) (tr : Transaction) :
    ∃ a', (withFatal s f a).transact tr = withFatal (s.transact tr) f a' := by
  have hcfg : (withFatal s f a).cfg = s.cfg := rfl
  rw [State.transact, State.transact, hcfg]
  by_cases herr : isBusError s.cfg tr = true
  · exact ⟨_, by rw [if_pos herr, if_pos herr]; rfl⟩
  · rw [if_neg herr, if_neg herr]
    cases target s.cfg tr.addr with
    | outside => exact ⟨a, rfl⟩
    | reg off =>
      cases tr.op with
      | read => exact readReg_withFatal s f a (regAt off)
      | write v => exact ⟨_, writeReg_withFatal s f a v (regAt off)⟩
    | mem x =>
      cases tr.op with
      | read => exact readMem_withFatal s f a x tr.size
      | write v => exact ⟨_, writeMem_withFatal s f a x tr.size v⟩

/-- It leaves `FATAL` as it is: replacing it with itself before is replacing it after. -/
theorem transact_fatal (s : State) (tr : Transaction) : (s.transact tr).fatal = s.fatal := by
  obtain ⟨a, h⟩ := transact_withFatal s s.fatal s.answer tr
  exact (congrArg State.fatal h).trans rfl

/-- No event but reset clears `FATAL` (R211). -/
theorem step_fatal {s t : State} (hf : s.fatal = true) (h : step s = .next t) :
    t.fatal = true ∨ ∃ rest, s.order = .reset :: rest := by
  rcases step_cases h with ⟨rest, -, hturn⟩ | ⟨tr, rest, -, rfl⟩ | ⟨rest, horder, -⟩
  · rcases engineTurn_next hturn with ⟨-, rfl⟩ | ⟨-, -, rfl⟩ | ⟨-, hn, -⟩ | ⟨i, -, hn, -⟩
    · exact .inl hf
    · exact .inl (fatalAfter_eq_true.2 (.inl hf))
    · exact absurd (hn.symm.trans hf) Bool.false_ne_true
    · exact absurd (hn.symm.trans hf) Bool.false_ne_true
  · exact .inl ((transact_fatal _ tr).trans hf)
  · exact .inr ⟨rest, horder⟩

/-- Settles O21: the prologue's first test gives the halted step, `transact_withFatal` the accesses; a program error is
a failure that counts no drop, and `complete` sets `FATAL` for it. -/
theorem fatalErrorHaltsUntilReset : Obligations.FatalErrorHaltsUntilReset := by
  refine ⟨fun s t hf hstep hclear => ?_, fun s rest hf hdue => step_halted hdue hf, fun s tr rest b horder => ?_,
    fun i s t hrun he => ?_⟩
  · exact (step_fatal hf hstep).resolve_left (Bool.eq_false_iff.1 hclear)
  · obtain ⟨a, ha⟩ := transact_withFatal (s.take rest) b none tr
    refine ⟨_, _, step_bus horder, step_bus (s := { s with fatal := b }) horder, ?_⟩
    exact ha.trans (congrArg (fun u : State => withFatal ((s.take rest).transact tr) b u.answer) ha.symm)
  · have ht : t = ended s t.err := (exec_endsIn hrun).eq_ended (by simp [he]) (fun _ => by simp [he])
    rw [he] at ht
    exact ⟨ht, by simp [ht, ended]⟩

/-! ## The interrupt level -/

/-- A completion raises `DONE`, so the level is `IRQ_EN`. -/
theorem complete_irq (s : State) (e : ErrCode) : (s.complete e).irq = s.irqEn := Bool.and_true _

theorem EndsIn.irq {i : Instr} {s t : State} (h : EndsIn i s t) : t.irq = s.irqEn := by
  cases h with
  | success hirq => exact (complete_irq _ _).trans hirq
  | statusOnly _ _ | dropped _ _ _ | droppedRealigned _ _ _ _ => exact complete_irq _ _

/-- An engine turn of a busy unit completes a command, whose only mark on `IRQ` is `DONE` (R216). -/
theorem engineTurn_irq {s t : State} (h : engineTurn s = .next t) :
    (s.busy = false ∧ t = s) ∨ (s.busy = true ∧ t.irq = s.irqEn) := by
  rcases engineTurn_next h with hidle | ⟨hb, -, rfl⟩ | ⟨hb, -, -, rfl⟩ | ⟨i, hb, -, -, hrun⟩
  · exact .inl hidle
  · exact .inr ⟨hb, complete_irq _ _⟩
  · exact .inr ⟨hb, complete_irq _ _⟩
  · exact .inr ⟨hb, (exec_endsIn hrun).irq⟩

theorem step_engine_irq {s t : State} {rest : List Event} (hdue : EngineDue s rest) (hstep : step s = .next t) :
    t.irq = s.irqEn := by
  obtain ⟨horder, hb⟩ := hdue
  rw [step_engine horder] at hstep
  rcases engineTurn_irq hstep with ⟨hidle, -⟩ | ⟨-, hirq⟩
  · exact absurd (hidle.symm.trans hb) Bool.false_ne_true
  · exact hirq

theorem readReg_irq (s : State) (r : Option RegName) : (s.readReg r).irq = s.irq := by
  unfold State.readReg
  split <;> rfl

theorem readMem_irq (s : State) (a : Nat) (n : Size) : (s.readMem a n).irq = s.irq := by
  unfold State.readMem
  split <;> rfl

theorem writeMem_irq (s : State) (a : Nat) (n : Size) (v : Word) : (s.writeMem a n v).irq = s.irq := by
  unfold State.writeMem
  split <;> rfl

/-- Only the register block has offsets (20_memory.md R69). -/
theorem addr_eq_of_target_reg {c : Config} {a off : Nat} (h : target c a = .reg off) : a = c.regBase + off := by
  unfold target at h
  split at h
  · injection h with h
    omega
  · split at h <;> cases h

/-- A transaction that does not write a register leaves the level alone. -/
theorem transact_irq_or_regWrite (s : State) (tr : Transaction) :
    (s.transact tr).irq = s.irq ∨
      ∃ off v, tr = ⟨s.cfg.regBase + off, .four, .write v⟩ ∧ s.transact tr = s.writeReg (regAt off) v := by
  obtain ⟨addr, size, op⟩ := tr
  by_cases herr : isBusError s.cfg ⟨addr, size, op⟩ = true
  · exact .inl ((congrArg State.irq (transact_of_isBusError herr)).trans rfl)
  · rw [State.transact, if_neg herr]
    cases htgt : target s.cfg addr with
    | outside => exact .inl rfl
    | mem a =>
      cases op with
      | read => exact .inl (readMem_irq s a size)
      | write v => exact .inl (writeMem_irq s a size v)
    | reg off =>
      cases op with
      | read => exact .inl (readReg_irq s (regAt off))
      | write v =>
        have hsize : size = .four := by
          simp only [isBusError, htgt, Bool.or_eq_true, decide_eq_true_eq, not_or, not_not] at herr
          exact herr.1
        exact .inr ⟨off, v, by rw [addr_eq_of_target_reg htgt, hsize], rfl⟩

theorem irqEn_done_of_irq {s : State} (h : s.irq = true) : s.irqEn = true ∧ s.done = true := Bool.and_eq_true_iff.1 h

/-- A stored write lowers the level if it is to `CMD`, or acknowledges, or clears `IRQ_EN` (R216). -/
theorem storeReg_lowers_irq {s : State} {v : Word} {r : RegName} (hs : s.irq = true)
    (ht : (s.storeReg v (some r)).irq ≠ true) :
    r = .cmd ∨ r = .status ∧ v.getLsbD 1 = true ∨ r = .ctrl ∧ v.getLsbD 1 = false := by
  obtain ⟨hen, hdone⟩ := irqEn_done_of_irq hs
  cases r
  case cmd => exact .inl rfl
  case status =>
    have hbit : (s.irqEn && (s.done && !v.getLsbD 1)) ≠ true := ht
    exact .inr (.inl ⟨rfl, by simpa [hen, hdone] using hbit⟩)
  case ctrl =>
    have hbit : (v.getLsbD 1 && s.done) ≠ true := ht
    exact .inr (.inr ⟨rfl, by simpa [hdone] using hbit⟩)
  all_goals exact absurd hs ht

/-- While `BUSY = 1` only the acknowledge is stored (30_encoding.md R101 (a)). -/
theorem writeReg_lowers_irq {s : State} {v : Word} {off : Nat} (hs : s.irq = true)
    (ht : (s.writeReg (regAt off) v).irq ≠ true) :
    off = 0x08 ∧ v.getLsbD 1 = true ∨ off = 0x0C ∧ s.busy = false ∨
      off = 0x04 ∧ s.busy = false ∧ v.getLsbD 1 = false := by
  unfold State.writeReg at ht
  split at ht
  · exact absurd hs ht
  · rename_i hstored
    cases hr : regAt off with
    | none =>
      rw [hr] at ht
      exact absurd hs ht
    | some r =>
      obtain rfl := offset_of_regAt hr
      rw [hr] at ht hstored
      have hidle : r ≠ .status → s.busy = false := fun hne => by simpa [hne] using hstored
      rcases storeReg_lowers_irq hs ht with rfl | ⟨rfl, hv⟩ | ⟨rfl, hv⟩
      · exact .inr (.inl ⟨rfl, hidle nofun⟩)
      · exact .inl ⟨rfl, hv⟩
      · exact .inr (.inr ⟨rfl, hidle nofun, hv⟩)

/-- Settles O19: a completion leaves `IRQ = IRQ_EN` and an idle turn leaves the level, so it falls only by a reset or a
register write, one of the three of `writeReg_lowers_irq`. -/
theorem interruptLevel : Obligations.InterruptLevel := by
  refine ⟨fun s => Bool.and_eq_true_iff, fun s t rest => step_engine_irq, fun s t _ hstep hs ht => ?_⟩
  have ht : t.irq ≠ true := Bool.eq_false_iff.1 ht
  rcases step_cases hstep with ⟨rest, -, hturn⟩ | ⟨tr, rest, horder, rfl⟩ | ⟨rest, horder, -⟩
  · rcases engineTurn_irq hturn with ⟨-, rfl⟩ | ⟨-, hirq⟩
    · exact absurd hs ht
    · exact absurd (hirq.trans (irqEn_done_of_irq hs).1) ht
  · rcases transact_irq_or_regWrite (s.take rest) tr with hirq | ⟨off, v, rfl, hwrite⟩
    · exact absurd (hirq.trans hs) ht
    · rw [hwrite] at ht
      rcases writeReg_lowers_irq (s := s.take rest) hs ht with ⟨rfl, hv⟩ | ⟨rfl, hb⟩ | ⟨rfl, hb, hv⟩
      · exact .inr ⟨v, rest, .inl ⟨horder, hv⟩⟩
      · exact .inr ⟨v, rest, .inr (.inl ⟨horder, hb⟩)⟩
      · exact .inr ⟨v, rest, .inr (.inr ⟨horder, hb, hv⟩)⟩
  · exact .inl ⟨rest, horder⟩

end Sys2Proof.Proofs

/-! PROOFS, family other: the decoder and the encoder are inverse to each other (30_encoding.md R90 to R95). -/

namespace Sys2Proof.Proofs

open Sys2Proof.Machine Sys2Proof.Claims

/-! ## The decoder against the encoder -/

/-- A row of format Z decodes to its own command, from the word that is its `op` alone. -/
theorem decodeZ_eq_instr {b : Bool} {w : Word} {i j : Instr} (h : decodeZ b w i = .instr j) :
    i = j ∧ w.toNat / 256 = 0 := by
  rw [← zeroFieldZ_eq_zero]
  unfold decodeZ at h
  split at h
  · split at h
    · exact ⟨Decoded.instr.inj h, ‹_›⟩
    · cases h
  · cases h

/-- The row of format I decodes to `CRCBYTE` of the word's immediate. -/
theorem decodeI_eq_instr {w : Word} {j : Instr} (h : decodeI w .crcbyte = .instr j) :
    .crcbyte (immField w) = j ∧ w.toNat / 65536 = 0 := by
  rw [← zeroFieldI_eq_zero]
  unfold decodeI at h
  split at h
  · exact ⟨Decoded.instr.inj h, ‹_›⟩
  · cases h

/-- A word of a row of format Z is the row's `op`, and so the encoding of the row's command. -/
theorem encode_of_decodeZ {b : Bool} {w : Word} {i j : Instr} {op : Nat} (hop : (opField w).toNat = op)
    (hrow : (encode i).toNat = op) (h : decodeZ b w i = .instr j) : encode j = w := by
  obtain ⟨rfl, hz⟩ := decodeZ_eq_instr h
  rw [opField_toNat] at hop
  exact BitVec.eq_of_toNat_eq (by omega)

/-- A word of the row of format I is its `op` and its immediate. -/
theorem encode_of_decodeI {w : Word} {j : Instr} (hop : (opField w).toNat = 0x07)
    (h : decodeI w .crcbyte = .instr j) : encode j = w := by
  obtain ⟨rfl, hz⟩ := decodeI_eq_instr h
  have hw : (encode (.crcbyte (immField w))).toNat = (immField w).toNat * 256 + 7 := encodeI_toNat _ 7
  rw [opField_toNat] at hop
  rw [immField_toNat] at hw
  exact BitVec.eq_of_toNat_eq (by omega)

/-- A word that decodes to a command is its encoding. -/
theorem encode_of_decode {b : Bool} {w : Word} {i : Instr} (h : decode b w = .instr i) : encode i = w := by
  unfold decode at h
  split at h
  case h_8 hop => exact encode_of_decodeI hop h
  case h_14 => cases h
  all_goals exact encode_of_decodeZ ‹_› (by decide) h

/-- `CRCBYTE` decodes from its word, immediate and all, on every build. -/
theorem decode_encode_crcbyte (b : Bool) (imm8 : Byte) :
    decode b (encode (.crcbyte imm8)) = .instr (.crcbyte imm8) := by
  have himm := imm8.isLt
  have hw : (encode (.crcbyte imm8)).toNat = imm8.toNat * 256 + 7 := encodeI_toNat imm8 7
  have hop : (opField (encode (.crcbyte imm8))).toNat = 0x07 := by
    rw [opField_toNat]
    omega
  have hfield : immField (encode (.crcbyte imm8)) = imm8 := by
    refine BitVec.eq_of_toNat_eq ?_
    rw [immField_toNat]
    omega
  obtain ⟨hzero, -, -⟩ := Laws.Fields.crcbyte imm8
  simp only [decode, hop, decodeI]
  rw [if_pos hzero, hfield]

/-- A build decodes the word of every command it has. -/
theorem decode_encode {b : Bool} {i : Instr} (h : i.wf b = true) : decode b (encode i) = .instr i := by
  cases i with
  | crcbyte imm8 => exact decode_encode_crcbyte b imm8
  | nop | locate | genfcs | detlen | validate | appendfcs | crcinit => cases b <;> decide
  | qinit | qreserve | qcommit | qpeek | qconsume =>
    cases b with
    | true => decide
    | false => cases h

/-- Settles O2: `encode_of_decode` and `wf_of_decode` one way, `decode_encode` the other. -/
theorem decodeInvertsEncode : Obligations.DecodeInvertsEncode := by
  refine fun b w i => ⟨fun h => ⟨encode_of_decode h, wf_of_decode h⟩, ?_⟩
  rintro ⟨rfl, hwf⟩
  exact decode_encode hwf

/-- Settles O1: each word of the column `word` of R93 is the encoding of its command, so `decode_encode` applies. -/
theorem opcodeMapWords : Obligations.OpcodeMapWords := by
  have hword {i : Instr} (w : Word) (hw : encode i = w := by decide) : decode true w = .instr i :=
    hw ▸ decode_encode rfl
  exact ⟨hword _, hword _, hword _, hword _, hword _, hword _, hword _, ⟨hword _, hword _, hword _⟩, hword _, hword _,
    hword _, hword _, hword _⟩

end Sys2Proof.Proofs

/-! PROOFS, family other: what a command assigns and what it leaves alone (30_encoding.md R105), and the codes it ends
with (60_exceptions.md R205). -/

namespace Sys2Proof.Proofs

open Sys2Proof.Machine Sys2Proof.Claims

/-! ## The assignments of a command -/

/-- What the command `i` has assigned when it succeeds from `s`: the columns with a `w` in its row of R105. -/
inductive Assigns (s : State) : Instr → State → Prop
  | nop : Assigns s .nop s
  | locate (m : Memory) (n k j : Word) : Assigns s .locate { s with mem := m, len := n, midx := k, moff := j }
  | genfcs (c : Word) : Assigns s .genfcs { s with crc := c }
  | detlen (n c : Word) : Assigns s .detlen { s with len := n, crc := c }
  | validate (m : Memory) (n c k j : Word) :
      Assigns s .validate { s with mem := m, len := n, crc := c, midx := k, moff := j }
  | appendfcs (m : Memory) (n c : Word) : Assigns s .appendfcs { s with mem := m, len := n, crc := c }
  | crcinit (c : Word) : Assigns s .crcinit { s with crc := c }
  | crcbyte (b : Byte) (c : Word) : Assigns s (.crcbyte b) { s with crc := c }
  | qinit (c h t : Word) : Assigns s .qinit { s with qcap := c, qhead := h, qtail := t }
  | qreserve (m : Memory) (h t r d n : Word) :
      Assigns s .qreserve { s with mem := m, qhead := h, qtail := t, recd := r, qdata := d, qdlen := n }
  | qcommit (m : Memory) (d n : Word) : Assigns s .qcommit { s with mem := m, qdata := d, qdlen := n }
  | qpeek (r d n : Word) : Assigns s .qpeek { s with recd := r, qdata := d, qdlen := n }
  | qconsume (h t : Word) : Assigns s .qconsume { s with qhead := h, qtail := t }

theorem execLocate_assigns {s t : State} (h : execLocate s = .next t) (he : t.err = .noError) :
    ∃ u, Assigns s .locate u ∧ t = u.complete .noError := by
  rcases execLocate_next h with ⟨-, rfl⟩ | ⟨-, -, rfl⟩ | ⟨out, n, k, j, -, -, rfl⟩
  · cases he
  · cases he
  · exact ⟨_, .locate .., rfl⟩

theorem validateAligned_assigns {s t : State} {data : List Byte} (h : s.validateAligned data = .next t)
    (he : t.err = .noError) : ∃ l c, t = ((s.setLen l).setCrc c).complete .noError := by
  rcases State.validateAligned_next h with ⟨-, rfl⟩ | ⟨-, -, rfl⟩ | ⟨l, c, -, -, rfl⟩
  · cases he
  · cases he
  · exact ⟨_, _, rfl⟩

theorem execValidate_assigns {s t : State} (h : execValidate s = .next t) (he : t.err = .noError) :
    ∃ u, Assigns s .validate u ∧ t = u.complete .noError := by
  rcases execValidate_next h with ⟨-, rfl⟩ | ⟨-, -, -, rfl⟩ | ⟨out, n, k, j, -, -, -, h⟩ | ⟨-, -, h⟩
  · cases he
  · cases he
  · obtain ⟨l, c, rfl⟩ := validateAligned_assigns h he
    rw [State.putLocated_setLen_setCrc_eq]
    exact ⟨_, .validate .., rfl⟩
  · obtain ⟨l, c, rfl⟩ := validateAligned_assigns h he
    exact ⟨_, .validate s.mem l c s.midx s.moff, rfl⟩

theorem execQreserve_assigns {s t : State} (h : execQreserve s = .next t) (he : t.err = .noError) :
    ∃ u, Assigns s .qreserve u ∧ t = u.complete .noError := by
  rcases execQreserve_next h with
    ⟨-, -, rfl⟩ | ⟨-, -, -, rfl⟩ | ⟨-, -, rfl⟩ | ⟨-, -, -, rfl⟩ | ⟨off, pad, -, -, -, -, rfl⟩
  · cases he
  · rw [State.reserved_eq]
    exact ⟨_, .qreserve .., rfl⟩
  · cases he
  · cases he
  · obtain ⟨m, hm⟩ := s.padTail_eq_setMem pad
    rw [hm, State.setMem_reserved_eq]
    exact ⟨_, .qreserve .., rfl⟩

/-- A command that succeeds has made the assignments of its row and no others. -/
theorem exec_assigns {i : Instr} {s t : State} (h : exec i s = .next t) (he : t.err = .noError) :
    ∃ u, Assigns s i u ∧ t = u.complete .noError := by
  cases i with
  | nop => exact ⟨_, .nop, execNop_next h⟩
  | locate => exact execLocate_assigns h he
  | genfcs =>
    rcases execGenfcs_next h with ⟨-, rfl⟩ | ⟨-, rfl⟩
    · cases he
    · exact ⟨_, .genfcs _, rfl⟩
  | detlen =>
    rcases execDetlen_next h with ⟨-, rfl⟩ | ⟨-, -, rfl⟩ | ⟨l, c, -, -, rfl⟩
    · cases he
    · cases he
    · exact ⟨_, .detlen .., rfl⟩
  | validate => exact execValidate_assigns h he
  | appendfcs =>
    rcases execAppendfcs_next h with ⟨-, rfl⟩ | ⟨-, rfl⟩
    · cases he
    · exact ⟨_, .appendfcs .., rfl⟩
  | crcinit => exact ⟨_, .crcinit _, execCrcinit_next h⟩
  | crcbyte b => exact ⟨_, .crcbyte b _, execCrcbyte_next h⟩
  | qinit =>
    rcases execQinit_next h with ⟨-, rfl⟩ | ⟨-, -, rfl⟩
    · cases he
    · exact ⟨_, .qinit .., rfl⟩
  | qreserve => exact execQreserve_assigns h he
  | qcommit =>
    rcases execQcommit_next h with ⟨-, rfl⟩ | ⟨-, -, -, rfl⟩ | ⟨-, -, -, -, rfl⟩ | ⟨-, -, -, -, -, rfl⟩
    · cases he
    · cases he
    · cases he
    · rw [State.committed_eq]
      exact ⟨_, .qcommit .., rfl⟩
  | qpeek =>
    rcases execQpeek_next h with ⟨-, rfl⟩ | ⟨-, -, rfl⟩ | ⟨-, -, rfl⟩
    · exact ⟨_, .qpeek .., rfl⟩
    · cases he
    · exact ⟨_, .qpeek .., rfl⟩
  | qconsume =>
    rcases execQconsume_next h with ⟨-, rfl⟩ | ⟨-, -, rfl⟩ | ⟨-, -, -, rfl⟩ | ⟨-, -, -, rfl⟩
    · exact ⟨_, .qconsume s.qhead s.qtail, rfl⟩
    · exact ⟨_, .qconsume .., rfl⟩
    · cases he
    · exact ⟨_, .qconsume .., rfl⟩

/-! ## The frame of every command -/

/-- Settles O24: a success makes the assignments of its row (`exec_assigns`), and a failure is one of the ends of
`EndsIn`, of which only those that count a drop reach beyond `STATUS`. -/
theorem commandsLeaveOtherRegisters : Obligations.CommandsLeaveOtherRegisters := by
  intro i s t hrun
  by_cases he : t.err = .noError
  · obtain ⟨u, hu, rfl⟩ := exec_assigns hrun he
    cases hu <;> simp
  · cases exec_endsIn hrun with
    | success _ => exact absurd rfl he
    | statusOnly _ _ => simp
    | dropped hi _ _ =>
      subst hi
      simpa using he
    | droppedRealigned hi _ _ _ =>
      subst hi
      simpa [State.putLocated_eq] using he

/-! ## The codes of a command -/

/-- Every end of a command is a completion (30_encoding.md R99). -/
theorem EndsIn.eq_complete {i : Instr} {s t : State} (h : EndsIn i s t) : ∃ u : State, t = u.complete t.err := by
  cases h <;> exact ⟨_, rfl⟩

/-- What the prologue or the command's own rule leaves is a completion, whose code tells them apart (R100, R205). -/
theorem engineTurn_completes {s t : State} (hb : s.busy = true) (h : engineTurn s = .next t) :
    (∃ u : State, t = u.complete t.err) ∧ (t.err = .halted ↔ s.fatal = true) ∧
      (t.err = .illcmd ↔ s.fatal = false ∧ ∃ c, decode s.cfg.hasRpq s.pend = .illegal c) := by
  rcases engineTurn_next h with ⟨hidle, -⟩ | ⟨-, hf, rfl⟩ | ⟨-, hf, hd, rfl⟩ | ⟨i, -, hf, hd, hrun⟩
  · exact absurd (hidle.symm.trans hb) Bool.false_ne_true
  · exact ⟨⟨_, rfl⟩, by simp [hf]⟩
  · exact ⟨⟨_, rfl⟩, by simp [hf, hd]⟩
  · have hend := exec_endsIn hrun
    have hown := hend.err_not_mem_prologue_codes
    simp only [List.mem_cons, List.not_mem_nil, or_false, not_or] at hown
    exact ⟨hend.eq_complete, by simp [hf, hown], by simp [hd, hown]⟩

/-- Settles O23: the codes of a command's own rule from `EndsIn.err_mem_ownCodes`, those of an engine step from
`engineTurn_completes`, where the illegal words are those of `decode_illegal_iff`. -/
theorem errorCodesRaised : Obligations.ErrorCodesRaised := by
  refine ⟨fun i s t hrun => (exec_endsIn hrun).err_mem_ownCodes, ?_⟩
  rintro s t rest ⟨horder, hb⟩ hstep
  rw [step_engine horder] at hstep
  obtain ⟨⟨u, hu⟩, hhalted, hillcmd⟩ := engineTurn_completes (s := s.take rest) hb hstep
  rw [decode_illegal_iff] at hillcmd
  refine ⟨hhalted, hillcmd, ?_⟩
  rw [hu]
  exact ⟨rfl, rfl, rfl⟩

end Sys2Proof.Proofs

/-! PROOFS, family other: host accesses while `BUSY = 1` (30_encoding.md R101), the accesses to `MEM` of an idle FCU
(20_memory.md R68), foreign transactions (R69), and which bytes of `MEM` a transaction or a reset reaches
(70_reset_and_hazards.md R238). -/

namespace Sys2Proof.Proofs

open Sys2Proof.Machine Sys2Proof.Claims

/-! ## Events that do nothing -/

/-- Settles O5: an engine turn of an idle FCU keeps its state. -/
theorem idleEngineEventChangesNothing : Obligations.IdleEngineEventChangesNothing := by
  intro s rest horder hb
  rw [step_engine horder, engineTurn_idle (s := s.take rest) hb, take_eq_begun]

/-- An address in neither range selects nothing of the FCU (R69). -/
theorem target_of_outside {c : Config} {a : Nat} (hblock : ¬InBlock c a) (hmem : ¬InMem c a) :
    target c a = .outside :=
  (if_neg hblock).trans (if_neg hmem)

theorem transact_of_outside {s : State} {t : Transaction} (h : target s.cfg t.addr = .outside) : s.transact t = s := by
  simp [State.transact, isBusError, h]

/-- Settles O12: the address selects nothing, so the transaction is no bus error either. -/
theorem foreignTransactionsChangeNothing : Obligations.ForeignTransactionsChangeNothing := by
  intro s t rest horder hblock hmem
  rw [step_bus horder, transact_of_outside (s := s.take rest) (target_of_outside hblock hmem), take_eq_begun]

/-! ## Transactions while busy -/

/-- While `BUSY = 1` a transaction reaches `BUSYERR` and the model's own fields alone (R101): with `DONE = 0` there is
nothing else to acknowledge. -/
theorem transact_of_busy {s : State} (hb : s.busy = true) (hdone : s.done = false) (tr : Transaction) :
    ∃ e a k, s.transact tr = { s with busyErr := e, answer := a, free := k } := by
  have hidle : s.busy ≠ false := Bool.ne_false_iff.2 hb
  rcases s.transact_cases tr with h | ⟨a, h⟩ | ⟨-, n, h⟩ | ⟨-, h⟩ | ⟨v, h⟩ | ⟨hno, -⟩ | ⟨hno, -⟩
  · exact ⟨_, _, _, h⟩
  · exact ⟨_, _, _, h⟩
  · exact ⟨_, _, _, h⟩
  · exact ⟨_, _, _, h⟩
  · refine ⟨s.busyErr && !v.getLsbD 8, some .completed, s.free, h.trans ?_⟩
    simp [State.ackStatus, State.answerWith, hdone]
  · exact absurd hno hidle
  · exact absurd hno hidle

/-- Settles O8: `transact_of_busy`, with `DONE = 0` from the invariant. -/
theorem pendingCommandKeepsItsOperands : Obligations.PendingCommandKeepsItsOperands := by
  rintro s t rest ⟨-, ⟨hbusy, -⟩, -⟩ hb horder
  obtain ⟨hdone, -, -⟩ := hbusy hb
  obtain ⟨e, a, k, htrans⟩ := transact_of_busy (s := s.take rest) hb hdone t
  refine ⟨_, step_bus horder, ?_⟩
  rw [htrans]
  rfl

/-- The registers from `BASE` through `QCAP` are those that do not read as usual while `BUSY = 1` (R101). -/
theorem readsWhileBusy_regAt {o : Nat} (ha : o % 4 = 0) :
    readsWhileBusy (regAt o) = true ↔ ¬IsDataOffset o := by
  cases h : regAt o with
  | none =>
    have hne : ∀ r : RegName, o ≠ r.offset := ne_offset_of_regAt h
    refine iff_of_true rfl ?_
    rintro ⟨hlo, hhi⟩
    grind [RegName.offset]
  | some r =>
    obtain rfl := offset_of_regAt h
    cases r <;> simp [readsWhileBusy, IsDataOffset, RegName.offset]

theorem writeReg_of_busy {s : State} (hb : s.busy = true) {r : Option RegName} (hr : r ≠ some .status) (v : Word) :
    s.writeReg r v = s.dropWrite.answerWith .completed :=
  if_pos (by simp [hb, hr])

theorem readReg_of_readsWhileBusy {s : State} {r : Option RegName} (hr : readsWhileBusy r = true) :
    s.readReg r = s.answerWith (.data .four (s.regWord r)) :=
  if_neg (by simp [hr])

theorem readReg_of_busy {s : State} (hb : s.busy = true) {r : Option RegName} (hr : readsWhileBusy r = false) :
    s.readReg r = s.readFree .four :=
  if_pos (by simp [hb, hr])

/-- A write while `BUSY = 1`, to `MEM` or to any register but `STATUS`, is dropped (R101 (a)). -/
theorem transact_busy_write {s : State} {t : Transaction} {v : Word} (hw : s.cfg.wf) (hb : s.busy = true)
    (hop : t.op = .write v)
    (h : (InMem s.cfg t.addr ∧ t.addr % t.size.bytes = 0) ∨
      (InBlock s.cfg t.addr ∧ t.size = .four ∧ t.addr % 4 = 0 ∧ t.addr ≠ s.cfg.regBase + 0x08)) :
    s.transact t = s.dropWrite.answerWith .completed := by
  rcases h with ⟨hmem, ha⟩ | ⟨hblock, hsize, ha, hstatus⟩
  · rw [State.transact_mem hw hmem ha, hop]
    exact if_pos hb
  · rw [State.transact_reg hblock hsize ha, hop]
    refine writeReg_of_busy hb (fun hreg => ?_) v
    have hoff : 0x08 = t.addr - s.cfg.regBase := offset_of_regAt hreg
    obtain ⟨hlo, -⟩ := hblock
    omega

/-- A read while `BUSY = 1` of what is unspecified then draws a free value (R101 (c), log 7). -/
theorem transact_busy_read {s : State} {t : Transaction} (hw : s.cfg.wf) (hb : s.busy = true) (hop : t.op = .read)
    (h : (InMem s.cfg t.addr ∧ t.addr % t.size.bytes = 0) ∨
      (InBlock s.cfg t.addr ∧ t.size = .four ∧ t.addr % 4 = 0 ∧ IsDataOffset (t.addr - s.cfg.regBase))) :
    s.transact t = s.readFree t.size := by
  rcases h with ⟨hmem, ha⟩ | ⟨hblock, hsize, ha, hdata⟩
  · rw [State.transact_mem hw hmem ha, hop]
    exact if_pos hb
  · have hoff : (t.addr - s.cfg.regBase) % 4 = 0 := by
      obtain ⟨-, -, -, hbase, -⟩ := hw
      omega
    have hreads : readsWhileBusy (regAt (t.addr - s.cfg.regBase)) = false :=
      Bool.eq_false_iff.2 fun hr => (readsWhileBusy_regAt hoff).1 hr hdata
    rw [State.transact_reg hblock hsize ha, hop, hsize]
    exact readReg_of_busy hb hreads

/-- The other registers read as usual (R101 (b)). -/
theorem transact_busy_regRead {s : State} {t : Transaction} (hw : s.cfg.wf) (hop : t.op = .read)
    (hblock : InBlock s.cfg t.addr) (hsize : t.size = .four) (ha : t.addr % 4 = 0)
    (hdata : ¬IsDataOffset (t.addr - s.cfg.regBase)) :
    s.transact t = s.answerWith (.data .four (blockValue s (t.addr - s.cfg.regBase))) := by
  have hoff : (t.addr - s.cfg.regBase) % 4 = 0 := by
    obtain ⟨-, -, -, hbase, -⟩ := hw
    omega
  rw [State.transact_reg hblock hsize ha, hop, ← regWord_regAt]
  exact readReg_of_readsWhileBusy ((readsWhileBusy_regAt hoff).2 hdata)

theorem storeReg_busyErr {s : State} (h : s.busyErr = false) (v : Word) (r : Option RegName) :
    (s.storeReg v r).busyErr = false := by
  cases r with
  | none => exact h
  | some r => cases r <;> simp [State.storeReg, h]

/-- `BUSYERR` is set only while `BUSY = 1` (R101 (a)). -/
theorem transact_idle_busyErr {s : State} (hb : s.busy = false) (he : s.busyErr = false) (tr : Transaction) :
    (s.transact tr).busyErr = false := by
  rcases s.transact_cases tr with h | ⟨a, h⟩ | ⟨hno, -⟩ | ⟨hno, -⟩ | ⟨v, h⟩ | ⟨-, v, r, h⟩ | ⟨-, a, v, -, -, -, h⟩
  case inr.inr.inl | inr.inr.inr.inl => exact absurd (hb.symm.trans hno) Bool.false_ne_true
  case inr.inr.inr.inr.inr.inl => exact h ▸ storeReg_busyErr he v r
  all_goals simp [h, he]

/-- Settles O7, one lemma for each of its clauses; a write to `STATUS` finds `DONE` clear already. -/
theorem accessesWhileBusy : Obligations.AccessesWhileBusy := by
  rintro s t rest ⟨hw, ⟨hbusy, -⟩, -⟩ horder
  have hstep : step s = .next ((begun s rest).transact t) := step_bus horder
  refine ⟨fun hb v hop h => ?_, fun hb v ht => ?_, fun hb hop hblock hsize ha hdata => ?_, fun hb hop h => ?_,
    fun hb he u hu => ?_⟩
  · exact hstep.trans (congrArg _ (transact_busy_write (s := begun s rest) hw hb hop h))
  · obtain ⟨hdone, -, -⟩ := hbusy hb
    subst ht
    have hwrite := transact_regWrite (s := begun s rest) hw (o := 0x08) (by decide) (by decide) v
    refine hstep.trans (congrArg _ (hwrite.trans ?_))
    simp [State.writeReg, regAt, State.storeReg, State.ackStatus, State.answerWith, begun, hdone]
  · exact hstep.trans (congrArg _ (transact_busy_regRead (s := begun s rest) hw hop hblock hsize ha hdata))
  · refine ⟨t.size.low (Config.freeWord s.free), ?_, ?_⟩
    · rw [Size.low_toNat]
      exact Nat.mod_lt _ (Nat.pow_pos (by decide))
    · exact hstep.trans (congrArg _ (transact_busy_read (s := begun s rest) hw hb hop h))
  · obtain rfl := Host.Outcome.next.inj (hstep.symm.trans hu)
    exact transact_idle_busyErr (s := begun s rest) hb he t

/-! ## MEM accesses while idle -/

/-- A read of `n` bytes is the little-endian word at the address, cut to `n` bytes (00_scope.md R14). -/
theorem read_eq_wordAt (m : Memory) (a : Nat) (n : Size) :
    m.read a n = BitVec.ofNat 32 (wordAt m a % 256 ^ n.bytes) := by
  have hlow : (m.read a n).toNat = wordAt m a % 256 ^ n.bytes := by
    rw [← read_four_toNat]
    exact n.low_toNat _
  rw [← hlow, BitVec.ofNat_toNat, BitVec.setWidth_eq]

theorem inMem_memBase_add {c : Config} {a : Nat} (ha : a < c.memSize) : InMem c (c.memBase + a) :=
  ⟨Nat.le_add_right _ _, Nat.add_lt_add_left ha _⟩

/-- `MEM` is word-aligned on the bus, so natural alignment on the bus is natural alignment in `MEM` (R68). -/
theorem memBase_add_aligned {c : Config} (hw : c.wf) {a : Nat} {n : Size} (ha : a % n.bytes = 0) :
    (c.memBase + a) % n.bytes = 0 := by
  obtain ⟨-, -, -, -, hbase, -⟩ := hw
  cases n <;> simp only [Size.bytes] at ha ⊢ <;> omega

theorem transact_idle_memRead {s : State} {a : Nat} {n : Size} (hw : s.cfg.wf) (hb : s.busy = false)
    (ha : a < s.cfg.memSize) (hn : a % n.bytes = 0) :
    s.transact ⟨s.cfg.memBase + a, n, .read⟩ = s.answerWith (.data n (s.mem.read a n)) := by
  have h := State.transact_mem (t := ⟨s.cfg.memBase + a, n, .read⟩) hw (inMem_memBase_add ha)
    (memBase_add_aligned hw hn)
  rw [h]
  simp [State.readMem, hb]

theorem transact_idle_memWrite {s : State} {a : Nat} {n : Size} (hw : s.cfg.wf) (hb : s.busy = false)
    (ha : a < s.cfg.memSize) (hn : a % n.bytes = 0) (v : Word) :
    s.transact ⟨s.cfg.memBase + a, n, .write v⟩ = (s.setMem (s.mem.write a n v)).answerWith .completed := by
  have h := State.transact_mem (t := ⟨s.cfg.memBase + a, n, .write v⟩) hw (inMem_memBase_add ha)
    (memBase_add_aligned hw hn)
  rw [h]
  simp [State.writeMem, hb]

/-- `n` bytes written at `a` stand there, least significant first (00_scope.md R14, log 12). -/
theorem stored_write {m : Memory} (h : m.wf = true) (a : Nat) (n : Size) (v : Word) :
    Stored m (m.write a n v) a ((leFour v).take n.bytes) := by
  have hbytes : (leFour v).take n.bytes = leBytes n.bytes v := rfl
  intro x
  rw [hbytes, length_leBytes_size]
  exact Memory.byteAt_write h a n v x

/-- Settles O14: an aligned access inside `MEM` is no bus error, so it reads or writes as `read_eq_wordAt` and
`stored_write` say. -/
theorem idleMemAccesses : Obligations.IdleMemAccesses := by
  rintro s a n rest ⟨hw, -, ⟨hwf, -⟩, -⟩ hb ha hn
  refine ⟨fun horder => ?_, fun v horder => ?_⟩
  · rw [← read_eq_wordAt]
    exact (step_bus horder).trans (congrArg _ (transact_idle_memRead (s := begun s rest) hw hb ha hn))
  · have hwrite := transact_idle_memWrite (s := begun s rest) hw hb ha hn v
    exact ⟨_, (step_bus horder).trans (congrArg _ hwrite), rfl, stored_write hwf a n v⟩

/-! ## Reset -/

/-- The write region of the pending command, range by range, is that of R238. -/
theorem mayWrite_of_mem_writeRegion {s : State} {r : Nat × Nat} {x : Nat} (h : r ∈ s.writeRegion)
    (hx : r.1 ≤ x ∧ x < r.1 + r.2) : MayWrite s x := by
  unfold State.writeRegion at h
  unfold MayWrite
  rw [← writePos_eq_writePosOf]
  split at h
  -- `QRESERVE`, whose ranges depend on the tail
  case h_11 hd =>
    by_cases hq : s.qtail = noneOffset
    · simp_all
    · rw [if_neg hq] at h
      simp only [List.mem_cons, List.not_mem_nil, or_false] at h
      rcases h with rfl | rfl | rfl <;> simp_all
  all_goals simp_all

/-- Settles O16: the reset transition touches the write region alone. -/
theorem resetWhileBusyKeepsOtherBytes : Obligations.ResetWhileBusyKeepsOtherBytes := by
  rintro s rest ⟨-, -, ⟨hwf, -⟩, -⟩ - horder
  obtain ⟨m, k, hreset, -, hbytes, -⟩ := (s.take rest).resetStep_spec
  obtain ⟨-, hkept⟩ := hbytes hwf
  refine ⟨_, (step_reset horder).trans (congrArg _ hreset), rfl, rfl, fun x hx => hkept x fun r hr hin => ?_⟩
  exact hx (mayWrite_of_mem_writeRegion (s := s) hr hin)

/-- The reset state of a legal build with a canonical `MEM` meets the invariant. -/
theorem resetOf_inv {cfg : Config} {mem : Memory} (order : List Event) (free : Nat) (hcfg : cfg.wf)
    (hwf : mem.wf = true) (hin : mem.within cfg.memSize = true) : (State.resetOf cfg mem order free).Inv := by
  refine ⟨hcfg, ⟨nofun, nofun, nofun⟩, ⟨hwf, hin⟩, ?_, fun _ => ⟨rfl, rfl, rfl, rfl, rfl⟩⟩
  exact ⟨rfl, Nat.zero_le _, iff_of_true rfl rfl, absurd rfl, absurd rfl⟩

/-- Settles O17: `State.reset` is the reset state of the default build with an empty `MEM`. -/
theorem resetMeetsInv : Obligations.ResetMeetsInv :=
  ⟨resetOf_inv [] 0 (by decide) rfl rfl, fun _ _ order free => resetOf_inv order free⟩

/-! ## Which bytes a step reaches -/

/-- Only the window onto `MEM` has addresses in `MEM` (20_memory.md R69). -/
theorem inMem_of_target_mem {c : Config} {a x : Nat} (h : target c a = .mem x) :
    InMem c a ∧ x = a - c.memBase := by
  unfold target at h
  split at h
  · cases h
  · split at h
    · exact ⟨‹_›, (Target.mem.inj h).symm⟩
    · cases h

theorem storeReg_mem (s : State) (v : Word) (r : Option RegName) : (s.storeReg v r).mem = s.mem := by
  cases r with
  | none => rfl
  | some r => cases r <;> rfl

/-- A transaction that changes the byte at `x` is a write to `MEM` while idle, one of whose bytes is at `x` (R68). -/
theorem transact_byteAt {s : State} {tr : Transaction} {x : Nat} (hwf : s.mem.wf = true)
    (h : (s.transact tr).mem.byteAt x ≠ s.mem.byteAt x) :
    s.busy = false ∧ InMem s.cfg tr.addr ∧ tr.addr ≤ s.cfg.memBase + x ∧
      s.cfg.memBase + x < tr.addr + tr.size.bytes ∧ ∃ v, tr.op = .write v := by
  rcases s.transact_cases tr with he | ⟨a, he⟩ | ⟨-, n, he⟩ | ⟨-, he⟩ | ⟨v, he⟩ | ⟨-, v, r, he⟩ |
    ⟨hb, a, v, htgt, -, hop, he⟩
  case inr.inr.inr.inr.inr.inr =>
    obtain ⟨hmem, rfl⟩ := inMem_of_target_mem htgt
    have hcover : ¬(x < tr.addr - s.cfg.memBase ∨ tr.addr - s.cfg.memBase + tr.size.bytes ≤ x) := fun hoff =>
      h (he ▸ Memory.byteAt_write_off hwf tr.size v hoff)
    have hlo := hmem.1
    exact ⟨hb, hmem, by omega, by omega, v, hop⟩
  case inr.inr.inr.inr.inr.inl =>
    have hmem : (s.transact tr).mem = s.mem := he ▸ storeReg_mem s v r
    exact absurd (congrArg (Memory.byteAt · x) hmem) h
  all_goals exact absurd (congrArg (fun u : State => u.mem.byteAt x) he) h

/-- An engine turn that changes `MEM` runs one of the five commands that write it (30_encoding.md R105). -/
theorem engineTurn_mem {s t : State} (h : engineTurn s = .next t) (hmem : t.mem ≠ s.mem) :
    s.busy = true ∧ s.fatal = false ∧ ∃ i, decode s.cfg.hasRpq s.pend = .instr i ∧
      i ∈ [Instr.locate, .validate, .appendfcs, .qreserve, .qcommit] := by
  rcases engineTurn_next h with ⟨-, rfl⟩ | ⟨-, -, rfl⟩ | ⟨-, -, -, rfl⟩ | ⟨i, hb, hf, hd, hrun⟩
  · exact absurd rfl hmem
  · exact absurd rfl hmem
  · exact absurd rfl hmem
  · obtain ⟨-, -, -, -, -, -, -, -, -, hkeeps, -⟩ := commandsLeaveOtherRegisters i s t hrun
    exact ⟨hb, hf, i, hd, of_not_not fun hi => hmem (hkeeps hi)⟩

/-- Settles O20, along the three kinds of events. -/
theorem memBytesPersist : Obligations.MemBytesPersist := by
  rintro s t x ⟨-, -, ⟨hwf, -⟩, -⟩ hstep hx
  rcases step_cases hstep with ⟨rest, horder, hturn⟩ | ⟨tr, rest, horder, rfl⟩ | ⟨rest, horder, rfl⟩
  · have hmem : t.mem ≠ (s.take rest).mem := fun he => hx (by rw [he]; rfl)
    obtain ⟨hb, hf, i, hd, hi⟩ := engineTurn_mem hturn hmem
    exact .inr (.inl ⟨rest, i, ⟨horder, hb⟩, hf, hd, hi⟩)
  · obtain ⟨hb, hmem, hlo, hhi, v, hop⟩ := transact_byteAt (s := s.take rest) hwf hx
    exact .inl ⟨tr, v, rest, horder, hb, hop, hmem, hlo, hhi⟩
  · obtain ⟨m, k, hreset, hidle, -⟩ := (s.take rest).resetStep_spec
    rw [hreset] at hx
    exact .inr (.inr ⟨rest, horder, Bool.ne_false_iff.1 fun hb => hx (congrArg (Memory.byteAt · x) (hidle hb))⟩)

end Sys2Proof.Proofs

/-! PROOFS, family other: the bounds on the results of `locateFrame`, and delayed captures (41_align.md section 2). -/

namespace Sys2Proof.Proofs

open Sys2Proof.Machine Sys2Proof.Claims

/-! ## Bounds on the results -/

/-- Settles O35: the data start at the end of a pattern of 32 bits at a dibit boundary, and the output ends with the
capture. -/
theorem locateResultBounds : Obligations.LocateResultBounds := by
  intro data out n i j hloc
  obtain ⟨hj, ⟨heven, h32, hle, -⟩, -, hn, hout, -⟩ := (locateFindsTheFirstPattern data).2 out n i j hloc
  refine ⟨by omega, ?_, by omega, fun hend => ?_⟩
  · simp only [List.mem_cons, List.not_mem_nil, or_false]
    omega
  · have hn0 : n = 0 := by omega
    exact ⟨List.eq_nil_of_length_eq_zero (hout.trans hn0), hn0⟩

/-! ## The bits of a delayed capture -/

theorem length_delay (data : List Byte) (r : Nat) :
    (delay data r).length = data.length + if r = 0 then 0 else 1 := by
  unfold delay
  split <;> simp

theorem streamBit_of_length_le {data : List Byte} {x : Nat} (h : 8 * data.length ≤ x) : streamBit data x = false := by
  rw [streamBit, List.getD_eq_default _ _ (by omega)]
  exact BitVec.getLsbD_zero

/-- Byte `k` of a delayed capture takes its upper bits from byte `k` and its lower ones from byte `k - 1`. -/
theorem getLsbD_delayed_byte (data : List Byte) {r k b : Nat} (hr : 0 < r) (hr8 : r < 8) (hb : b < 8) :
    ((data.getD k 0 <<< r) ||| ((if k = 0 then 0 else data.getD (k - 1) 0) >>> (8 - r))).getLsbD b =
      (decide (r ≤ 8 * k + b) && streamBit data (8 * k + b - r)) := by
  rw [BitVec.getLsbD_or, BitVec.getLsbD_shiftLeft, BitVec.getLsbD_ushiftRight, decide_eq_true hb, Bool.true_and]
  by_cases h : b < r
  · rw [decide_eq_true h, Bool.not_true, Bool.false_and, Bool.false_or]
    by_cases hk : k = 0
    · rw [if_pos hk, decide_eq_false (by omega), Bool.false_and]
      exact BitVec.getLsbD_zero
    · rw [if_neg hk, decide_eq_true (by omega), Bool.true_and, streamBit]
      congr 2 <;> omega
  · rw [decide_eq_false h, Bool.not_false, Bool.true_and, BitVec.getLsbD_of_ge _ (8 - r + b) (by omega), Bool.or_false,
      decide_eq_true (by omega), Bool.true_and, streamBit]
    congr 2 <;> omega

/-- A delay by `r` bits puts `r` zero bits in front of the stream (95_test_vectors.md section 1). -/
theorem streamBit_delay (data : List Byte) {r : Nat} (hr : r < 8) (x : Nat) :
    streamBit (delay data r) x = (decide (r ≤ x) && streamBit data (x - r)) := by
  by_cases h0 : r = 0
  · simp [delay, h0]
  by_cases hx : x / 8 < data.length + 1
  · have hbit := getLsbD_delayed_byte data (k := x / 8) (Nat.pos_of_ne_zero h0) hr (Nat.mod_lt x (by decide : 0 < 8))
    rw [Nat.div_add_mod] at hbit
    rw [← hbit, streamBit, delay, if_neg h0]
    congr 1
    simp [hx]
  · have hlen := length_delay data r
    rw [if_neg h0] at hlen
    rw [streamBit_of_length_le (by omega), streamBit_of_length_le (by omega), Bool.and_false]

/-! ## The bits of a preamble -/

theorem length_preamble (k : Nat) : (preamble k).length = k + 1 := by simp [preamble]

theorem streamBit_append_right (l₁ l₂ : List Byte) (x : Nat) :
    streamBit (l₁ ++ l₂) (8 * l₁.length + x) = streamBit l₂ x := by
  rw [streamBit, streamBit, List.getD_append_right _ _ _ _ (by omega),
    show (8 * l₁.length + x) / 8 - l₁.length = x / 8 by omega, show (8 * l₁.length + x) % 8 = x % 8 by omega]

/-- The stream of a preamble alternates from 1 on, but for its last bit, which is 1 (20_memory.md R64). -/
theorem streamBit_preamble (k : Nat) (frame : List Byte) {x : Nat} (hx : x < 8 * (k + 1)) :
    streamBit (preamble k ++ frame) x = decide (x % 2 = 0 ∨ x = 8 * k + 7) := by
  have hflag : ∀ b < 8, (0x55 : Byte).getLsbD b = decide (b % 2 = 0) := by decide
  have hsfd : ∀ b < 8, (0xD5 : Byte).getLsbD b = decide (b % 2 = 0 ∨ b = 7) := by decide
  rw [streamBit, preamble, List.append_assoc]
  by_cases hk : x / 8 < k
  · rw [List.getD_append _ _ _ _ (by simpa using hk), List.getD_replicate _ hk, hflag _ (Nat.mod_lt _ (by decide))]
    exact decide_eq_decide.2 (by omega)
  · have hlast : x / 8 - k = 0 := by omega
    rw [List.getD_append_right _ _ _ _ (by simpa using hk), List.length_replicate, hlast, List.singleton_append,
      List.getD_cons_zero, hsfd _ (Nat.mod_lt _ (by decide))]
    exact decide_eq_decide.2 (by omega)

/-! ## Delayed captures of a frame behind its preamble -/

/-- In a delayed preamble the pattern ends with the delimiter: its last bit is 1 at an odd place of the preamble. -/
theorem eq_of_patternBefore_delayed {frame : List Byte} {k r s : Nat} (hr : r < 8) (hr2 : r % 2 = 0)
    (hp : PatternBefore (delay (preamble k ++ frame) r) s) (hs : s ≤ 8 * (k + 1) + r) : s = 8 * (k + 1) + r := by
  obtain ⟨heven, h32, -, hbits⟩ := hp
  have hlast : streamBit (delay (preamble k ++ frame) r) (s - 32 + 31) = true := hbits 31 (by decide)
  rw [streamBit_delay _ hr, Bool.and_eq_true, decide_eq_true_eq] at hlast
  obtain ⟨hle, hone⟩ := hlast
  rw [streamBit_preamble _ _ (by omega), decide_eq_true_eq] at hone
  omega

/-- Three bytes of preamble and the delimiter are the pattern, at the delay. -/
theorem patternBefore_delayed (frame : List Byte) {k r : Nat} (hk : 3 ≤ k) (hr : r < 8) (hr2 : r % 2 = 0) :
    PatternBefore (delay (preamble k ++ frame) r) (8 * (k + 1) + r) := by
  have hpattern : ∀ b < 32, (0xAAAAAAAB : Word).getLsbD (31 - b) = decide (b % 2 = 0 ∨ b = 31) := by decide
  refine ⟨by omega, by omega, ?_, fun b hb => ?_⟩
  · rw [length_delay, List.length_append, length_preamble]
    split <;> omega
  · rw [streamBit_delay _ hr, decide_eq_true (by omega), Bool.true_and, streamBit_preamble _ _ (by omega),
      hpattern b hb]
    exact decide_eq_decide.2 (by omega)

/-- Behind the preamble the delayed stream is the frame's. -/
theorem streamBit_delayed_frame (frame : List Byte) (k : Nat) {r : Nat} (hr : r < 8) (x : Nat) :
    streamBit (delay (preamble k ++ frame) r) (8 * (k + 1) + r + x) = streamBit frame x := by
  have hx : 8 * (k + 1) + r + x - r = 8 * (preamble k).length + x := by
    rw [length_preamble]
    omega
  rw [streamBit_delay _ hr, decide_eq_true (by omega), Bool.true_and, hx, streamBit_append_right]

/-- Bytes are equal if their bits in the stream are. -/
theorem eq_of_streamBit {out frame : List Byte} (hlen : out.length = frame.length)
    (hbits : ∀ t b, t < frame.length → b < 8 → (out.getD t 0).getLsbD b = streamBit frame (8 * t + b)) :
    out = frame := by
  refine List.ext_getElem hlen fun t ht ht' => BitVec.eq_of_getLsbD_eq fun b hb => ?_
  have hbit := hbits t b ht' hb
  rw [streamBit, show (8 * t + b) / 8 = t by omega, show (8 * t + b) % 8 = b by omega, List.getD_eq_getElem _ _ ht,
    List.getD_eq_getElem _ _ ht'] at hbit
  exact hbit

/-- Settles O36: the first pattern ends with the delimiter, so the data start there, and the output is the frame bit for
bit. -/
theorem evenDelaysAreUndone : Obligations.EvenDelaysAreUndone := by
  intro frame k r hk hmem
  obtain ⟨hr, hr2⟩ : r < 8 ∧ r % 2 = 0 := by
    simp only [List.mem_cons, List.not_mem_nil, or_false] at hmem
    omega
  have hpat := patternBefore_delayed frame hk hr hr2
  obtain ⟨hnone, hsome⟩ := locateFindsTheFirstPattern (delay (preamble k ++ frame) r)
  cases hloc : locateFrame (delay (preamble k ++ frame) r) with
  | framingError => exact absurd hpat (hnone.1 hloc _)
  | ok out n i j =>
    obtain ⟨hj, hstart, hfirst, hn, hout, hbits⟩ := hsome out n i j hloc
    have hs : 8 * i + j = 8 * (k + 1) + r :=
      eq_of_patternBefore_delayed hr hr2 hstart (le_of_not_gt fun hlt => hfirst _ hlt hpat)
    obtain ⟨rfl, rfl⟩ : i = k + 1 ∧ j = r := by omega
    have hlen : n = frame.length := by
      rw [length_delay, List.length_append, length_preamble] at hn
      split at hn <;> omega
    have hframe : out = frame := eq_of_streamBit (hout.trans hlen) fun t b ht hb => by
      rw [hbits t b (hlen ▸ ht) hb, ← streamBit_delayed_frame frame k hj]
      congr 1
      omega
    rw [hframe, hlen]

end Sys2Proof.Proofs

/-! PROOFS, family other: the invariant (10_state.md section 3) is kept by every command, every transaction and every
reset, and every run of a pending command ends (30_encoding.md R98, R103). -/

namespace Sys2Proof.Proofs

open Sys2Proof.Machine Sys2Proof.Claims

/-! ## Every command answers -/

/-- A non-empty queue either has no room or a place (40_queue.md R114). -/
theorem noRoom_or_placedAt (s : State) : NoRoom s ∨ ∃ off pad, PlacedAt s off pad := by
  rcases Nat.lt_trichotomy s.qhead.toNat (writePosOf s) with hlt | heq | hgt
  · by_cases hend : FitsIn s (footprintOf s) (s.qcap.toNat - writePosOf s)
    · exact .inr ⟨_, _, .inl ⟨hlt, hend, rfl, rfl⟩⟩
    · by_cases hwrap : FitsIn s (footprintOf s) s.qhead.toNat
      · exact .inr ⟨_, _, .inr (.inl ⟨hlt, hend, hwrap, rfl, rfl⟩)⟩
      · exact .inl (.inr (.inl ⟨hlt, hend, hwrap⟩))
  · exact .inl (.inl heq)
  · by_cases hgap : FitsIn s (footprintOf s) (s.qhead.toNat - writePosOf s)
    · exact .inr ⟨_, _, .inr (.inr ⟨hgt, hgap, rfl, rfl⟩)⟩
    · exact .inl (.inr (.inr ⟨hgt, hgap⟩))

theorem execQreserve_answers {s : State} (h : s.Inv) : ∃ t, execQreserve s = .next t := by
  obtain ⟨hsmall, hempty, hbad, hfull, hplaced⟩ := qreserveOutcomes s h
  by_cases hq : s.qhead = 0xFFFFFFFF
  · rcases lt_or_ge s.qcap.toNat (footprintOf s) with hlt | hge
    · exact ⟨_, hsmall hq hlt⟩
    · exact (hempty hq hge).imp fun _ => And.left
  · by_cases hok : HeaderSane s s.qtail.toNat
    · rcases noRoom_or_placedAt s with hno | ⟨off, pad, hat⟩
      · exact ⟨_, hfull hq hok hno⟩
      · exact (hplaced off pad hq hok hat).imp fun _ => And.left
    · exact ⟨_, hbad hq hok⟩

theorem execQcommit_answers {s : State} (h : s.Inv) : ∃ t, execQcommit s = .next t := by
  obtain ⟨hother, hbad, hlong, hok⟩ := qcommitOutcomes s h
  by_cases hq : s.qtail = 0xFFFFFFFF
  · exact ⟨_, hother (.inl hq)⟩
  by_cases hrec : s.recd = s.qtail
  · by_cases hs : HeaderSane s s.recd.toNat
    · rcases lt_or_ge (dataField s s.recd.toNat) s.arg.toNat with hlt | hge
      · exact ⟨_, hlong hq hrec hs hlt⟩
      · exact (hok hq hrec hs hge).imp fun _ => And.left
    · exact ⟨_, hbad hq hrec hs⟩
  · exact ⟨_, hother (.inr hrec)⟩

theorem execQpeek_answers {s : State} (h : s.Inv) : ∃ t, execQpeek s = .next t := by
  obtain ⟨hempty, hbad, hok⟩ := qpeekReturnsTheHead s h
  by_cases hq : s.qhead = 0xFFFFFFFF
  · exact ⟨_, hempty hq⟩
  · by_cases hs : HeaderSane s s.qhead.toNat
    · exact ⟨_, hok hq hs⟩
    · exact ⟨_, hbad hq hs⟩

theorem execQconsume_answers {s : State} (h : s.Inv) : ∃ t, execQconsume s = .next t := by
  obtain ⟨hempty, hone, hbad, hok⟩ := qconsumeRemovesTheHead s h
  by_cases hq : s.qhead = 0xFFFFFFFF
  · exact ⟨_, hempty hq⟩
  by_cases heq : s.qhead = s.qtail
  · exact ⟨_, hone hq heq⟩
  · by_cases hs : HeaderSane s s.qhead.toNat
    · exact ⟨_, hok hq heq hs⟩
    · exact ⟨_, hbad hq heq hs⟩

theorem execQinit_answers (s : State) : ∃ t, execQinit s = .next t := by
  obtain ⟨hbad, hok⟩ := qinitEmptiesTheQueue s
  by_cases h : s.arg.toNat % 4 ≠ 0 ∨ s.cfg.memSize < s.arg.toNat
  · exact ⟨_, hbad h⟩
  · exact ⟨_, hok (by omega) (by omega)⟩

/-- No command stops the machine in a state of the invariant (93_implementation_defined.md). -/
theorem exec_answers {s : State} (h : s.Inv) (i : Instr) : ∃ t, exec i s = .next t := by
  cases hq : i.isQueue with
  | false => exact (exec_ignoresQueueRegs hq s).imp fun _ => And.left
  | true =>
    cases i with
    | qinit => exact execQinit_answers s
    | qreserve => exact execQreserve_answers h
    | qcommit => exact execQcommit_answers h
    | qpeek => exact execQpeek_answers h
    | qconsume => exact execQconsume_answers h
    | nop | locate | genfcs | detlen | validate | appendfcs | crcinit | crcbyte _ => cases hq

/-! ## The status flags -/

/-- A completion leaves consistent flags, whatever stood there before (30_encoding.md R99). -/
theorem complete_flagsInv (u : State) (e : ErrCode) : (u.complete e).flagsInv :=
  ⟨nofun, okAfter_eq_true.1, fun he => fatalAfter_eq_true.2 (.inr he)⟩

theorem flagsInv_of_eq_complete {t : State} (h : ∃ u : State, t = u.complete t.err) : t.flagsInv := by
  obtain ⟨u, hu⟩ := h
  have hflags := complete_flagsInv u t.err
  rwa [← hu] at hflags

/-! ## MEM stays canonical and in bounds -/

theorem memInv_of_eq {s t : State} (hcfg : t.cfg = s.cfg) (hmem : t.mem = s.mem) (h : s.memInv) : t.memInv := by
  rwa [State.memInv, hcfg, hmem]

theorem memInv_write {s : State} (h : s.memInv) {a : Nat} {n : Size} (v : Word)
    (ha : a + n.bytes ≤ s.cfg.memSize) : (s.setMem (s.mem.write a n v)).memInv :=
  ⟨Memory.wf_write h.1 a n v, Memory.within_write n v h.2 ha⟩

theorem memInv_complete {s : State} (h : s.memInv) (e : ErrCode) : (s.complete e).memInv := h

/-- A header inside `MEM` is written inside `MEM` (10_state.md R44). -/
theorem memInv_putHeader {s : State} (h : s.memInv) {off : Nat} (d m : Nat) (ha : off + 8 ≤ s.cfg.memSize) :
    (s.putHeader off d m).memInv := by
  have hdata : (s.setMem (s.mem.write off .four (BitVec.ofNat 32 d))).memInv :=
    memInv_write h _ (by simp only [Size.bytes]; omega)
  exact memInv_write hdata _ (by simp only [Size.bytes, State.setMem_cfg]; omega)

theorem mem_reserved (s : State) (off f : Nat) : (s.reserved off f).mem = (s.putHeader off s.arg.toNat f).mem := by
  rw [State.reserved_eq]
  rfl

theorem memInv_reserved {s : State} (h : s.memInv) {off : Nat} (f : Nat) (ha : off + 8 ≤ s.cfg.memSize) :
    (s.reserved off f).memInv := by
  have hcfg : (s.reserved off f).cfg = s.cfg := by rw [State.reserved_eq]
  rw [State.memInv, hcfg, mem_reserved]
  exact memInv_putHeader h s.arg.toNat f ha

theorem mem_committed (s : State) : s.committed.mem =
    (s.putHeader s.recd.toNat s.arg.toNat
      (s.memBytes s.recd.toNat - dn4 (s.dataBytes s.recd.toNat - s.arg.toNat))).mem := by
  rw [State.committed_eq]
  rfl

theorem memInv_committed {s : State} (h : s.memInv) (ha : s.recd.toNat + 8 ≤ s.cfg.memSize) : s.committed.memInv := by
  have hcfg : s.committed.cfg = s.cfg := by rw [State.committed_eq]
  rw [State.memInv, hcfg, mem_committed]
  exact memInv_putHeader h _ _ ha

theorem memInv_padTail {s : State} (h : s.memInv) (pad : Nat) (ha : s.qtail.toNat + 8 ≤ s.cfg.memSize) :
    (s.padTail pad).memInv := by
  unfold State.padTail
  split
  · exact memInv_write h _ (by simp only [Size.bytes]; omega)
  · exact h

/-- The realigned bytes are no more than the window holds (41_align.md section 2). -/
theorem memInv_putLocated {s : State} {out : List Byte} {n i j : Nat} (h : s.memInv) (hfits : s.windowFits 0)
    (hloc : locateFrame s.window = .ok out n i j) : (s.putLocated out n i j).memInv := by
  obtain ⟨-, -, -, hlen⟩ := locateFrame_window_bounds hloc
  obtain ⟨-, -, hn, -⟩ := locateResultBounds _ _ _ _ _ hloc
  rw [State.length_window] at hn
  have hroom : s.base.toNat + out.length ≤ s.cfg.memSize := by
    have hw : s.base.toNat + s.len.toNat + 0 ≤ s.cfg.memSize := hfits
    omega
  exact ⟨Memory.wf_putList h.1 _ out, Memory.within_putList out h.2 hroom⟩

theorem execLocate_memInv {s t : State} (h : s.memInv) (hrun : execLocate s = .next t) : t.memInv := by
  rcases execLocate_next hrun with ⟨-, rfl⟩ | ⟨-, -, rfl⟩ | ⟨out, n, i, j, hfits, hloc, rfl⟩
  · exact h
  · exact h
  · exact memInv_putLocated h hfits hloc

theorem validateAligned_memInv {s t : State} {data : List Byte} (h : s.memInv)
    (hrun : s.validateAligned data = .next t) : t.memInv := by
  rcases State.validateAligned_next hrun with ⟨-, rfl⟩ | ⟨-, -, rfl⟩ | ⟨l, c, -, -, rfl⟩
  all_goals exact h

theorem execValidate_memInv {s t : State} (h : s.memInv) (hrun : execValidate s = .next t) : t.memInv := by
  rcases execValidate_next hrun with ⟨-, rfl⟩ | ⟨-, -, -, rfl⟩ | ⟨out, n, i, j, hfits, -, hloc, hrun⟩ | ⟨-, -, hrun⟩
  · exact h
  · exact h
  · exact validateAligned_memInv (memInv_putLocated h hfits hloc) hrun
  · exact validateAligned_memInv h hrun

theorem execAppendfcs_memInv {s t : State} (h : s.memInv) (hrun : execAppendfcs s = .next t) : t.memInv := by
  rcases execAppendfcs_next hrun with ⟨-, rfl⟩ | ⟨hfits, rfl⟩
  · exact h
  · have hroom : s.base.toNat + s.len.toNat + Size.bytes .four ≤ s.cfg.memSize := hfits
    exact memInv_of_eq (s := s.setMem (s.mem.write (s.base.toNat + s.len.toNat) .four (fcs s.window))) rfl rfl
      (memInv_write h (fcs s.window) hroom)

theorem execQreserve_memInv {s t : State} (h : s.memInv) (hcap : s.qcap.toNat ≤ s.cfg.memSize)
    (hrun : execQreserve s = .next t) : t.memInv := by
  rcases execQreserve_next hrun with
    ⟨-, -, rfl⟩ | ⟨-, -, h8, rfl⟩ | ⟨-, -, rfl⟩ | ⟨-, -, -, rfl⟩ | ⟨off, pad, -, hok, -, h8, rfl⟩
  · exact h
  · exact memInv_complete (memInv_reserved h _ (by omega)) _
  · exact h
  · exact h
  · obtain ⟨-, htail, -⟩ := hok
    have hpad := memInv_padTail h pad (htail.trans hcap)
    obtain ⟨m, hm⟩ := s.padTail_eq_setMem pad
    rw [hm] at hpad ⊢
    exact memInv_complete (memInv_reserved hpad (footprint s.arg.toNat) h8) _

theorem execQcommit_memInv {s t : State} (h : s.memInv) (hrun : execQcommit s = .next t) : t.memInv := by
  rcases execQcommit_next hrun with ⟨-, rfl⟩ | ⟨-, -, -, rfl⟩ | ⟨-, -, -, -, rfl⟩ | ⟨-, -, -, h8, -, rfl⟩
  · exact h
  · exact h
  · exact h
  · exact memInv_complete (memInv_committed h h8) .noError

/-- Every command keeps `MEM` canonical and in bounds (10_state.md R43). -/
theorem exec_memInv {i : Instr} {s t : State} (h : s.Inv) (hrun : exec i s = .next t) : t.memInv := by
  obtain ⟨-, -, hmem, ⟨-, hcap, -⟩, -⟩ := h
  obtain ⟨⟨hcfg, -⟩, -, -, -, -, -, -, -, -, hkeeps, -⟩ := commandsLeaveOtherRegisters i s t hrun
  cases i with
  | locate => exact execLocate_memInv hmem hrun
  | validate => exact execValidate_memInv hmem hrun
  | appendfcs => exact execAppendfcs_memInv hmem hrun
  | qreserve => exact execQreserve_memInv hmem hcap hrun
  | qcommit => exact execQcommit_memInv hmem hrun
  | nop | genfcs | detlen | crcinit | crcbyte _ | qinit | qpeek | qconsume =>
    exact memInv_of_eq hcfg (hkeeps (by simp)) hmem

/-! ## The queue registers -/

/-- `t` has the build of `s` and its `QCAP`, `QHEAD` and `QTAIL`. -/
structure SameRing (s t : State) : Prop where
  cfg : t.cfg = s.cfg
  cap : t.qcap = s.qcap
  head : t.qhead = s.qhead
  tail : t.qtail = s.qtail

theorem SameRing.queueRegsInv {s t : State} (hring : SameRing s t) (h : s.queueRegsInv) : t.queueRegsInv := by
  rwa [State.queueRegsInv, hring.cfg, hring.cap, hring.head, hring.tail]

/-- An offset inside the arena is a register value of its own, not `NONE`: the arena is at most `2^31` bytes. -/
theorem ofNat_offset {s : State} (hcfg : s.cfg.wf) (h : s.queueRegsInv) {off : Nat} (hoff : off < s.qcap.toNat) :
    (BitVec.ofNat 32 off).toNat = off ∧ BitVec.ofNat 32 off ≠ noneOffset := by
  obtain ⟨-, -, hsize, -⟩ := hcfg
  obtain ⟨-, hcap, -⟩ := h
  have hval : (BitVec.ofNat 32 off).toNat = off := Nat.mod_eq_of_lt (by omega)
  refine ⟨hval, fun hnone => ?_⟩
  have hmax : (BitVec.ofNat 32 off).toNat = 0xFFFFFFFF := congrArg BitVec.toNat hnone
  omega

/-- Offsets stay word-aligned around the end of the arena. -/
theorem mod_cap_aligned {x cap : Nat} (hx : x % 4 = 0) (hcap : cap % 4 = 0) : x % cap % 4 = 0 := by
  rw [Nat.mod_mod_of_dvd x (Nat.dvd_of_mod_eq_zero hcap), hx]

/-- Where a successful `QRESERVE` puts its record: word-aligned and inside the arena (40_queue.md R114). In an empty
queue that is at 0, and nothing is padded. -/
theorem execQreserve_placed {s t : State} (h : s.queueRegsInv) (hrun : execQreserve s = .next t)
    (he : t.err = .noError) :
    ∃ off pad, off % 4 = 0 ∧ off + footprint s.arg.toNat ≤ s.qcap.toNat ∧
      t = ((s.padTail pad).reserved off (footprint s.arg.toNat)).complete .noError := by
  obtain ⟨hcap4, -, -, hhead, htail⟩ := h
  rcases execQreserve_next hrun with
    ⟨-, -, rfl⟩ | ⟨-, hroom, -, rfl⟩ | ⟨-, -, rfl⟩ | ⟨-, -, -, rfl⟩ | ⟨off, pad, hq, hok, hplace, -, rfl⟩
  · cases he
  · exact ⟨0, 0, rfl, by omega, rfl⟩
  · cases he
  · cases he
  · obtain ⟨ht4, -, hm4, -, -⟩ := hok
    obtain ⟨-, hlt⟩ := hhead hq
    have hwp : s.writePos < s.qcap.toNat := Nat.mod_lt _ (by omega)
    have hwp4 : s.writePos % 4 = 0 := mod_cap_aligned (by omega) hcap4
    refine ⟨off, pad, ?_, ?_, rfl⟩ <;>
      rcases place_some hplace with ⟨rfl, -, -, hroom⟩ | ⟨rfl, -, -, hroom⟩ | ⟨rfl, -, -, hroom⟩ <;> omega

/-- An arena of this capacity without a record (40_queue.md R112). -/
theorem queueRegsInv_of_empty {s : State} (h4 : s.qcap.toNat % 4 = 0) (hle : s.qcap.toNat ≤ s.cfg.memSize)
    (hhead : s.qhead = noneOffset) (htail : s.qtail = noneOffset) : s.queueRegsInv :=
  ⟨h4, hle, iff_of_true hhead htail, absurd hhead, absurd htail⟩

theorem execQinit_queueRegsInv {s t : State} (h : s.queueRegsInv) (hrun : execQinit s = .next t) :
    t.queueRegsInv := by
  rcases execQinit_next hrun with ⟨-, rfl⟩ | ⟨h4, hle, rfl⟩
  · exact h
  · exact queueRegsInv_of_empty h4 hle rfl rfl

/-- A record whose header lies inside the arena becomes the tail, and the head too if it is the only one. -/
theorem reserved_queueRegsInv {s : State} (hcfg : s.cfg.wf) (h : s.queueRegsInv) {off : Nat} (f : Nat)
    (hoff4 : off % 4 = 0) (hoff : off + 8 ≤ s.qcap.toNat) : (s.reserved off f).queueRegsInv := by
  obtain ⟨hval, hnone⟩ := ofNat_offset hcfg h (off := off) (by omega)
  obtain ⟨hcap4, hcap, -, hhead, -⟩ := h
  have htail : (BitVec.ofNat 32 off).toNat % 4 = 0 ∧ (BitVec.ofNat 32 off).toNat + 8 ≤ s.qcap.toNat := by
    rw [hval]
    exact ⟨hoff4, hoff⟩
  rw [State.reserved_eq]
  by_cases hq : s.qhead = noneOffset
  · have hzero : (0 : Word) ≠ noneOffset := by decide
    have hpos : 0 < s.qcap.toNat := by omega
    simp only [State.queueRegsInv, if_pos hq]
    exact ⟨hcap4, hcap, iff_of_false hzero hnone, fun _ => ⟨rfl, hpos⟩, fun _ => htail⟩
  · simp only [State.queueRegsInv, if_neg hq]
    exact ⟨hcap4, hcap, iff_of_false hq hnone, hhead, fun _ => htail⟩

theorem execQreserve_queueRegsInv {s t : State} (hcfg : s.cfg.wf) (h : s.queueRegsInv)
    (hrun : execQreserve s = .next t) (he : t.err = .noError) : t.queueRegsInv := by
  obtain ⟨off, pad, hoff4, hoff, rfl⟩ := execQreserve_placed h hrun he
  have hf : 8 + s.arg.toNat ≤ footprint s.arg.toNat := footprint_ge _
  obtain ⟨m, hm⟩ := s.padTail_eq_setMem pad
  have hres : ((s.setMem m).reserved off (footprint s.arg.toNat)).queueRegsInv :=
    reserved_queueRegsInv (s := s.setMem m) hcfg h _ hoff4 (by rw [State.setMem_qcap]; omega)
  rw [hm]
  exact SameRing.queueRegsInv ⟨rfl, rfl, rfl, rfl⟩ hres

theorem execQconsume_queueRegsInv {s t : State} (hcfg : s.cfg.wf) (h : s.queueRegsInv)
    (hrun : execQconsume s = .next t) : t.queueRegsInv := by
  have hregs := h
  obtain ⟨hcap4, hcap, hboth, hhead, htail⟩ := h
  rcases execQconsume_next hrun with ⟨-, rfl⟩ | ⟨-, -, rfl⟩ | ⟨-, -, -, rfl⟩ | ⟨hq, -, hok, rfl⟩
  · exact hregs
  · exact queueRegsInv_of_empty hcap4 hcap rfl rfl
  · exact hregs
  · obtain ⟨ho4, -, hm4, -, -⟩ := hok
    have hlt : (s.qhead.toNat + s.memBytes s.qhead.toNat) % s.qcap.toNat < s.qcap.toNat := by
      have := (hhead hq).2
      exact Nat.mod_lt _ (by omega)
    obtain ⟨hval, hnone⟩ := ofNat_offset hcfg hregs hlt
    have hnext4 := mod_cap_aligned (x := s.qhead.toNat + s.memBytes s.qhead.toNat) (by omega) hcap4
    refine ⟨hcap4, hcap, iff_of_false hnone (mt hboth.2 hq), fun _ => ?_, htail⟩
    simp only [State.complete, State.setEnds, hval]
    exact ⟨hnext4, hlt⟩

/-- Every command keeps the queue registers aligned, inside the arena and both `NONE` or neither (10_state.md R46). -/
theorem exec_queueRegsInv {i : Instr} {s t : State} (hcfg : s.cfg.wf) (h : s.queueRegsInv)
    (hrun : exec i s = .next t) : t.queueRegsInv := by
  obtain ⟨⟨htcfg, -⟩, -, -, -, -, -, -, hends, hcap, -, -, hfail⟩ := commandsLeaveOtherRegisters i s t hrun
  by_cases he : t.err = .noError
  · cases i with
    | qinit => exact execQinit_queueRegsInv h hrun
    | qreserve => exact execQreserve_queueRegsInv hcfg h hrun he
    | qconsume => exact execQconsume_queueRegsInv hcfg h hrun
    | nop | locate | genfcs | detlen | validate | appendfcs | crcinit | crcbyte _ | qcommit | qpeek =>
      obtain ⟨hhead, htail⟩ := hends (by simp)
      exact SameRing.queueRegsInv ⟨htcfg, hcap nofun, hhead, htail⟩ h
  · obtain ⟨-, -, -, -, hhead, htail, hcap⟩ := hfail he
    exact SameRing.queueRegsInv ⟨htcfg, hcap, hhead, htail⟩ h

/-- Without the queue unit no command is the unit's, and every other one leaves its registers alone (R42). -/
theorem exec_noQueueInv {i : Instr} {s t : State} (h : s.noQueueInv) (hi : i.wf s.cfg.hasRpq = true)
    (hrun : exec i s = .next t) : t.noQueueInv := by
  obtain ⟨⟨hcfg, -⟩, -⟩ := commandsLeaveOtherRegisters i s t hrun
  rw [State.noQueueInv, hcfg]
  intro hq
  have hqueue : i.isQueue = false := by simpa [Instr.wf, hq] using hi
  have hkeeps : unitRegs t = unitRegs s := (congrArg unitRegs ((exec_ignoresQueueRegs hqueue s).keeps hrun)).symm
  simpa [unitRegs, h hq] using hkeeps

/-- Every command that a build has keeps the invariant. -/
theorem exec_inv {i : Instr} {s t : State} (h : s.Inv) (hi : i.wf s.cfg.hasRpq = true)
    (hrun : exec i s = .next t) : t.Inv := by
  have hmem := exec_memInv h hrun
  obtain ⟨hcfg, -, -, hregs, hnone⟩ := h
  obtain ⟨⟨htcfg, -⟩, -⟩ := commandsLeaveOtherRegisters i s t hrun
  exact ⟨htcfg ▸ hcfg, flagsInv_of_eq_complete (exec_endsIn hrun).eq_complete, hmem,
    exec_queueRegsInv hcfg hregs hrun, exec_noQueueInv hnone hi hrun⟩

/-! ## Every event keeps the invariant -/

/-- Completing without the command's rule keeps the invariant too (30_encoding.md R100). -/
theorem complete_inv {s : State} (h : s.Inv) (e : ErrCode) : (s.complete e).Inv := by
  obtain ⟨hcfg, -, hmem, hregs, hnone⟩ := h
  exact ⟨hcfg, complete_flagsInv s e, hmem, hregs, hnone⟩

theorem engineTurn_inv {s : State} (h : s.Inv) : ∃ t, engineTurn s = .next t ∧ t.Inv := by
  cases hb : s.busy with
  | false => exact ⟨s, engineTurn_idle hb, h⟩
  | true =>
    cases hf : s.fatal with
    | true => exact ⟨_, engineTurn_halted hb hf, complete_inv h _⟩
    | false =>
      cases hd : decode s.cfg.hasRpq s.pend with
      | illegal c => exact ⟨_, engineTurn_illegal hb hf hd, complete_inv h _⟩
      | instr i =>
        obtain ⟨t, hrun⟩ := exec_answers h i
        exact ⟨t, (engineTurn_instr hb hf hd).trans hrun, exec_inv h (wf_of_decode hd) hrun⟩

theorem ackStatus_inv {s : State} (h : s.Inv) (v : Word) : (s.ackStatus v).Inv := by
  obtain ⟨hcfg, ⟨hbusy, hflags⟩, hrest⟩ := h
  refine ⟨hcfg, ⟨fun hb => ?_, hflags⟩, hrest⟩
  obtain ⟨hdone, hok⟩ := hbusy hb
  exact ⟨by simp [hdone], hok⟩

theorem accept_inv {s : State} (h : s.Inv) (w : Word) : (s.accept w).Inv := by
  obtain ⟨hcfg, -, hrest⟩ := h
  exact ⟨hcfg, ⟨fun _ => ⟨rfl, rfl, rfl⟩, nofun, nofun⟩, hrest⟩

theorem storeReg_inv {s : State} (h : s.Inv) (v : Word) (r : Option RegName) : (s.storeReg v r).Inv := by
  cases r with
  | none => exact h
  | some r =>
    cases r with
    | status => exact ackStatus_inv h v
    | cmd => exact accept_inv h v
    | id | ctrl | base | len | maxLen | crc | midx | moff | drops | arg | recd | qdata | qdlen | qhead | qtail | qcap =>
      exact h

/-- A naturally aligned access to `MEM` ends inside it, whose size and bus base are multiples of 4 (R8). -/
theorem access_le_memSize {c : Config} (hw : c.wf) {a : Nat} {n : Size} (h : InMem c a) (ha : a % n.bytes = 0) :
    a - c.memBase + n.bytes ≤ c.memSize := by
  obtain ⟨hsize, -, -, -, hbase, -⟩ := hw
  obtain ⟨hlo, hhi⟩ := h
  cases n <;> simp only [Size.bytes] at ha ⊢ <;> omega

theorem transact_inv {s : State} (h : s.Inv) (tr : Transaction) : (s.transact tr).Inv := by
  rcases s.transact_cases tr with he | ⟨a, he⟩ | ⟨-, n, he⟩ | ⟨-, he⟩ | ⟨v, he⟩ | ⟨-, v, r, he⟩ |
    ⟨-, a, v, htgt, halign, -, he⟩
  case inr.inr.inr.inr.inl => exact he ▸ ackStatus_inv h v
  case inr.inr.inr.inr.inr.inl => exact he ▸ storeReg_inv h v r
  case inr.inr.inr.inr.inr.inr =>
    obtain ⟨hcfg, hflags, hmem, hrest⟩ := h
    obtain ⟨hin, rfl⟩ := inMem_of_target_mem htgt
    exact he ▸ ⟨hcfg, hflags, memInv_write hmem v (access_le_memSize hcfg hin halign), hrest⟩
  all_goals
    rw [he]
    exact h

theorem resetStep_inv {s : State} (h : s.Inv) : s.resetStep.Inv := by
  obtain ⟨hcfg, -, ⟨hwf, hin⟩, -⟩ := h
  obtain ⟨m, k, hreset, -, hm, hmin⟩ := s.resetStep_spec
  exact hreset ▸ resetOf_inv _ _ hcfg (hm hwf).1 (hmin hin)

/-- Settles O18, along the three kinds of events. -/
theorem everyStepKeepsInv : Obligations.EveryStepKeepsInv := by
  intro s h
  cases horder : s.order with
  | nil =>
    rw [step_engine (.inr ⟨horder, rfl⟩)]
    exact engineTurn_inv (s := s.take []) h
  | cons e rest =>
    cases e with
    | engine =>
      rw [step_engine (.inl horder)]
      exact engineTurn_inv (s := s.take rest) h
    | bus tr => exact ⟨_, step_bus horder, transact_inv (s := s.take rest) h tr⟩
    | reset => exact ⟨_, step_reset horder, resetStep_inv (s := s.take rest) h⟩

/-! ## Runs of the machine -/

/-- A run begins with one step. -/
theorem core_run_succ (M : Host.Core) {s u : M.State} (h : M.step s = .next u) (k : Nat) :
    M.run (k + 1) s = M.run k u := by
  rw [Host.Core.run, h]

theorem run_succ {s u : State} (h : step s = .next u) (k : Nat) :
    Host.Core.run Sys2Proof.core (k + 1) s = Host.Core.run Sys2Proof.core k u :=
  core_run_succ Sys2Proof.core h k

/-- An engine step that is due leaves the FCU idle (30_encoding.md R99). -/
theorem run_one_idle {s : State} {rest : List Event} (h : s.Inv) (hdue : EngineDue s rest) :
    ∃ t, Host.Core.run Sys2Proof.core 1 s = .next t ∧ t.busy = false := by
  obtain ⟨t, hstep, -⟩ := everyStepKeepsInv s h
  obtain ⟨-, -, -, -, hidle⟩ := errorCodesRaised.2 s t rest hdue hstep
  exact ⟨t, run_succ hstep 0, hidle⟩

/-- Settles O10, by induction on the events left: an engine step or a reset ends the command at once, and a transaction
leaves it pending with one event less. -/
theorem pendingCommandEnds : Obligations.PendingCommandEnds := by
  intro s h hb
  generalize horder : s.order = events
  induction events generalizing s with
  | nil =>
    obtain ⟨t, hrun, hidle⟩ := run_one_idle h ⟨.inr ⟨horder, rfl⟩, hb⟩
    exact ⟨1, t, by simp, hrun, hidle⟩
  | cons e rest ih =>
    cases e with
    | engine =>
      obtain ⟨t, hrun, hidle⟩ := run_one_idle h ⟨.inl horder, hb⟩
      exact ⟨1, t, by simp, hrun, hidle⟩
    | reset => exact ⟨1, _, by simp, run_succ (step_reset horder) 0, rfl⟩
    | bus tr =>
      obtain ⟨u, hstep, hu⟩ := pendingCommandKeepsItsOperands s tr rest h hb horder
      obtain ⟨u', hstep', hinv⟩ := everyStepKeepsInv s h
      obtain rfl : u' = u := Host.Outcome.next.inj (hstep'.symm.trans hstep)
      have hub : u'.busy = true := by rw [hu]; exact hb
      have huorder : u'.order = rest := by rw [hu]; rfl
      obtain ⟨k, t, hk, hrun, hidle⟩ := ih u' hinv hub huorder
      exact ⟨k + 1, t, by simpa using hk, (run_succ hstep k).trans hrun, hidle⟩

/-- `s` with these events left and this answer on the bus. -/
def leftWith (s : State) (rest : List Event) (a : Option Answer) : State := { s with order := rest, answer := a }

/-- A poll of `STATUS` reads it and does nothing else, whether or not `BUSY = 1` (R101 (b)). -/
theorem step_poll {s : State} {rest : List Event} (hw : s.cfg.wf) (horder : s.order = rdEvent s.cfg .status :: rest) :
    step s = .next (leftWith s rest (some (.data .four (BitVec.ofNat 32 (statusNumber s))))) := by
  have hread := transact_regRead (s := begun s rest) (o := 0x08) hw (by decide) (by decide)
  rw [← statusWord_eq]
  exact (step_bus horder).trans (congrArg _ (hread.trans (readReg_of_readsWhileBusy rfl)))

/-- Polls leave no trace but the last answer. -/
theorem run_polls {s : State} (hw : s.cfg.wf) {polls : Nat} {rest : List Event}
    (horder : s.order = List.replicate polls (rdEvent s.cfg .status) ++ rest) (k : Nat) :
    ∃ a, Host.Core.run Sys2Proof.core (polls + k) s = Host.Core.run Sys2Proof.core k (leftWith s rest a) := by
  induction polls generalizing s with
  | zero =>
    refine ⟨s.answer, ?_⟩
    have hs : leftWith s rest s.answer = s := congrArg (fun es => leftWith s es s.answer) horder.symm
    rw [hs, Nat.zero_add]
  | succ polls ih =>
    obtain ⟨a, hpolls⟩ := ih (s := leftWith s (List.replicate polls (rdEvent s.cfg .status) ++ rest)
      (some (.data .four (BitVec.ofNat 32 (statusNumber s))))) hw rfl
    refine ⟨a, ?_⟩
    rw [Nat.add_right_comm]
    exact (run_succ (step_poll hw horder) _).trans hpolls

/-- Settles O9: the accepted write, the polls, the engine step, which runs the command because its word decodes back
(`decode_encode`), and the poll that sees it done. -/
theorem runScriptRunsTheCommand : Obligations.RunScriptRunsTheCommand := by
  intro s t i polls rest hw hb hf hi horder hrun
  have haccept : step s = .next (leftWith (s.accept (encode i))
      (List.replicate polls (rdEvent s.cfg .status) ++ (.engine :: rdEvent s.cfg .status :: rest)) (some .completed)) :=
    acceptedCmdWrite s (encode i) _ hw hb (by simp [horder, ScriptLine.events, waitEvents, wrEvent, RegName.offset])
  obtain ⟨a, hpolls⟩ := run_polls (s := leftWith (s.accept (encode i))
      (List.replicate polls (rdEvent s.cfg .status) ++ (.engine :: rdEvent s.cfg .status :: rest)) (some .completed))
    hw rfl 2
  have hengine : step (leftWith (s.accept (encode i)) (.engine :: rdEvent s.cfg .status :: rest) a) = .next t :=
    (step_instr (s := leftWith (s.accept (encode i)) _ a) ⟨.inl rfl, rfl⟩ hf (decode_encode hi)).trans hrun
  obtain ⟨⟨hcfg, -, -, -, -, -, -, -, htorder, -⟩, -⟩ := commandsLeaveOtherRegisters _ _ _ hrun
  have hpoll := step_poll (s := t) (rest := rest) (hcfg ▸ hw) (hcfg ▸ htorder)
  calc Host.Core.run Sys2Proof.core (polls + 3) s
      = Host.Core.run Sys2Proof.core (polls + 2) (leftWith (s.accept (encode i)) _ (some .completed)) :=
        run_succ haccept (polls + 2)
    _ = Host.Core.run Sys2Proof.core 2 (leftWith (s.accept (encode i)) _ a) := hpolls
    _ = Host.Core.run Sys2Proof.core 1 t := run_succ hengine 1
    _ = .next (leftWith t rest _) := run_succ hpoll 0

end Sys2Proof.Proofs

/-! PROOFS, family other: streaming and the residue of the CRC (42_crc.md sections 1 and 2), the boundary detector on a
frame, and what `VALIDATE` and `DETLEN` make of it (43_framelen.md sections 1 to 3). -/

namespace Sys2Proof.Proofs

open Sys2Proof.Machine Sys2Proof.Claims

/-! ## Streaming -/

theorem runAll_cons {i : Instr} {s u : State} (h : exec i s = .next u) (is : List Instr) :
    runAll (i :: is) s = runAll is u := by
  rw [runAll, h]

/-- From a completed command on, the `CRCBYTE`s fold their bytes into `CRC` (R164). -/
theorem runAll_crcbytes (s : State) (c : Word) (bs : List Byte) :
    runAll (bs.map .crcbyte) (ended { s with crc := c } .noError) =
      .next (ended { s with crc := bs.foldl crcByte c } .noError) := by
  induction bs generalizing c with
  | nil => rfl
  | cons b bs ih =>
    have hbyte : exec (.crcbyte b) (ended { s with crc := c } .noError) =
        .next (ended { s with crc := crcByte c b } .noError) := by
      refine (execCrcbyte_eq b _).trans ?_
      simp only [ended_noError]
    rw [List.map_cons, runAll_cons hbyte, ih, List.foldl_cons]

/-- Settles O31: after the first command `CRC` is `fcs` of what it has seen, and `fcs` is the same fold. -/
theorem streamingCrcEqualsOneShot : Obligations.StreamingCrcEqualsOneShot := by
  intro s bs
  refine ⟨?_, fun hfits => ?_⟩
  · rw [runAll_cons (i := .crcinit) (execCrcinit_eq s), runAll_crcbytes]
    rfl
  · rw [runAll_cons (i := .genfcs) (execGenfcs_of_fits hfits), runAll_crcbytes, fcs, fcs, List.foldl_append]

/-! ## The residue -/

theorem xor_ones_xor_ones (x : Word) : x ^^^ 0xFFFFFFFF ^^^ 0xFFFFFFFF = x := by
  rw [BitVec.xor_assoc, BitVec.xor_self]
  exact BitVec.xor_zero

/-- A byte entering the raw register after `n` bit steps could have entered before them, `n` bits further up. -/
theorem crcByte_iterate {n : Nat} (hn : n ≤ 24) (x : Word) (b : Byte) :
    crcByte (bitStep^[n] x ^^^ 0xFFFFFFFF) b = bitStep^[8 + n] (x ^^^ b.setWidth 32 <<< n) ^^^ 0xFFFFFFFF := by
  have hshift : bitStep^[n] (b.setWidth 32 <<< n) = b.setWidth 32 := by
    rw [iterate_bitStep_of_low_zero fun i hi => by simp [hi]]
    refine BitVec.eq_of_getLsbD_eq fun i hi => ?_
    by_cases hb : i < 8
    · have hin : n + i < 32 := by omega
      simp [hi, hin]
    · simp [hi, BitVec.getLsbD_of_ge b i (by omega)]
  rw [crcByte_eq_iterate_bitStep, xor_ones_xor_ones, Function.iterate_add_apply, iterate_bitStep_xor n x,
    hshift]

/-- A word is its four bytes, each shifted to its place. -/
theorem xor_shifted_bytes (d : Word) :
    (d.extractLsb' 0 8).setWidth 32 ^^^ (d.extractLsb' 8 8).setWidth 32 <<< 8 ^^^
      (d.extractLsb' 16 8).setWidth 32 <<< 16 ^^^ (d.extractLsb' 24 8).setWidth 32 <<< 24 = d := by
  refine BitVec.eq_of_getLsbD_eq fun i hi => ?_
  simp only [BitVec.getLsbD_xor, BitVec.getLsbD_shiftLeft, BitVec.getLsbD_setWidth, BitVec.getLsbD_extractLsb', hi]
  obtain h | ⟨h, h'⟩ | ⟨h, h'⟩ | h : i < 8 ∨ 8 ≤ i ∧ i < 16 ∨ 16 ≤ i ∧ i < 24 ∨ 24 ≤ i := by omega
  all_goals grind

/-- Four bytes on the finished value are 32 bit steps on the raw register. -/
theorem foldl_crcByte_leFour (c d : Word) :
    (leFour d).foldl crcByte c = bitStep^[32] (c ^^^ (0xFFFFFFFF : Word) ^^^ d) ^^^ 0xFFFFFFFF := by
  calc (leFour d).foldl crcByte c
      = (leFour d).foldl crcByte (bitStep^[0] (c ^^^ 0xFFFFFFFF) ^^^ 0xFFFFFFFF) := by
        rw [Function.iterate_zero_apply, xor_ones_xor_ones]
    _ = bitStep^[32] (c ^^^ (0xFFFFFFFF : Word) ^^^
          ((d.extractLsb' 0 8).setWidth 32 ^^^ (d.extractLsb' 8 8).setWidth 32 <<< 8 ^^^
            (d.extractLsb' 16 8).setWidth 32 <<< 16 ^^^ (d.extractLsb' 24 8).setWidth 32 <<< 24)) ^^^ 0xFFFFFFFF := by
        simp only [leFour, List.foldl_cons, List.foldl_nil]
        rw [crcByte_iterate (by decide), crcByte_iterate (by decide), crcByte_iterate (by decide),
          crcByte_iterate (by decide)]
        simp only [BitVec.xor_assoc, BitVec.shiftLeft_zero, Nat.reduceAdd]
    _ = bitStep^[32] (c ^^^ (0xFFFFFFFF : Word) ^^^ d) ^^^ 0xFFFFFFFF := by rw [xor_shifted_bytes]

/-- Settles O33: the raw register and the check sequence are complements, so the 32 bit steps start from all ones. -/
theorem frameResidueIsConstant : Obligations.FrameResidueIsConstant := by
  intro p
  have hones : fcs p ^^^ 0xFFFFFFFF ^^^ fcs p = 0xFFFFFFFF := by
    rw [BitVec.xor_comm (fcs p), BitVec.xor_assoc, BitVec.xor_self, BitVec.xor_zero]
  have hresidue : bitStep^[32] 0xFFFFFFFF ^^^ 0xFFFFFFFF = (0x2144DF1C : Word) := by decide
  calc fcs (frameOf p)
      = (leFour (fcs p)).foldl crcByte (fcs p) := List.foldl_append
    _ = bitStep^[32] (fcs p ^^^ (0xFFFFFFFF : Word) ^^^ fcs p) ^^^ 0xFFFFFFFF := foldl_crcByte_leFour _ _
    _ = 0x2144DF1C := by rw [hones, hresidue]

/-! ## The boundary detector on a frame -/

theorem length_frameOf (p : List Byte) : (frameOf p).length = p.length + 4 := by
  rw [frameOf, List.length_append]
  rfl

/-- Whether a candidate of a frame matches does not depend on what follows the frame. -/
theorem selfMatches_append {l : List Byte} {k : Nat} (hk : k + 4 ≤ l.length) (trail : List Byte) :
    SelfMatches (l ++ trail) k ↔ SelfMatches l k := by
  have hdrop : ((l ++ trail).drop k).take 4 = (l.drop k).take 4 := by
    rw [List.drop_append_of_le_length (by omega), List.take_append_of_le_length (by rw [List.length_drop]; omega)]
  rw [SelfMatches, SelfMatches, hdrop, List.take_append_of_le_length (by omega)]

theorem take_frameOf (p trail : List Byte) : (frameOf p ++ trail).take p.length = p := by
  rw [frameOf, List.append_assoc, List.take_left']
  rfl

/-- A frame matches itself at its payload's length (43_framelen.md R176). -/
theorem selfMatches_frameOf (p : List Byte) : SelfMatches (frameOf p) p.length :=
  (selfMatches_append_length p (leFour (fcs p))).2 rfl

/-- The detector finds the payload's length, unless a shorter prefix matches itself. -/
theorem determineLength_frameOf {p trail : List Byte} {m : Nat} (hm : p.length + 4 ≤ m)
    (hle : m ≤ (frameOf p ++ trail).length) (hno : ∀ k, k < p.length → ¬SelfMatches (frameOf p) k) :
    determineLength (frameOf p ++ trail) m = .ok p.length (fcs p) := by
  have hlen := length_frameOf p
  refine ((detectorReturnsTheFirstMatch (frameOf p ++ trail) m hle).1 _ _).2 ⟨hm, ?_, ?_, fun k hk => ?_⟩
  · rw [take_frameOf]
  · exact (selfMatches_append (by omega) trail).2 (selfMatches_frameOf p)
  · exact mt (selfMatches_append (by omega) trail).1 (hno k hk)

/-- Four bytes stored behind the window, and `LEN` four more: the window's bytes and those four. -/
theorem windowBytes_append_four {s t : State} {c : Word} (hbase : t.base = s.base)
    (hlen : t.len.toNat = s.len.toNat + 4)
    (hstored : Stored s.mem t.mem (s.base.toNat + s.len.toNat) (leFour c)) :
    windowBytes t = windowBytes s ++ leFour c := by
  have hkept (k : Nat) (hk : k < s.len.toNat) : t.mem.byteAt (s.base.toNat + k) = s.mem.byteAt (s.base.toNat + k) := by
    rw [hstored, if_neg (by omega)]
  have hnew (k : Nat) (hk : k < 4) : t.mem.byteAt (s.base.toNat + (s.len.toNat + k)) = (leFour c).getD k 0 := by
    have hin : s.base.toNat + s.len.toNat ≤ s.base.toNat + (s.len.toNat + k) ∧
        s.base.toNat + (s.len.toNat + k) < s.base.toNat + s.len.toNat + (leFour c).length :=
      ⟨by omega, by simp only [leFour, List.length_cons, List.length_nil]; omega⟩
    rw [hstored, if_pos hin]
    congr 1
    omega
  rw [windowBytes, hlen, hbase, List.range_add, List.map_append]
  congr 1
  · exact List.map_congr_left fun k hk => hkept k (List.mem_range.1 hk)
  · rw [List.map_map]
    exact List.map_congr_left (l := List.range 4) fun k hk => hnew k (List.mem_range.1 hk)

/-- Settles O43: the window after `APPENDFCS` is the frame of the window before, which the detector finds. -/
theorem detlenUndoesAppendfcs : Obligations.DetlenUndoesAppendfcs := by
  intro s h hfits hmax hno
  obtain ⟨-, happend⟩ := appendfcsAppendsTheFcs s h
  obtain ⟨t, hrun, ht, hlen, hstored⟩ := happend hfits
  have hbase : t.base = s.base := by rw [ht]; rfl
  have hframe : windowBytes t = frameOf (windowBytes s) := windowBytes_append_four hbase hlen hstored
  have hsize : (windowBytes s).length = s.len.toNat := length_windowBytes s
  have hmaxlen : t.maxLen = s.maxLen := by rw [ht]; rfl
  have hfits' : Fits t 0 := by
    have hcfg : t.cfg = s.cfg := by rw [ht]; rfl
    have hroom : s.base.toNat + s.len.toNat + 4 ≤ s.cfg.memSize := hfits
    rw [Fits, hcfg, hbase, hlen]
    omega
  have hfound : determineLength (windowBytes t) (min t.len.toNat t.maxLen.toNat) =
      .ok (windowBytes s).length (fcs (windowBytes s)) := by
    have hdet := determineLength_frameOf (p := windowBytes s) (trail := []) (m := min t.len.toNat t.maxLen.toNat)
      (by rw [hmaxlen]; omega) (by rw [List.append_nil, length_frameOf]; omega) (by rwa [hsize])
    rwa [List.append_nil, ← hframe] at hdet
  refine ⟨t, _, hrun, hframe, execDetlen_of_ok hfits' hfound, rfl, ?_, ?_, rfl⟩
  · refine (congrArg (BitVec.ofNat 32) hsize).trans ?_
    rw [BitVec.ofNat_toNat, BitVec.setWidth_eq]
  · rw [ht]
    rfl

/-! ## The pure function -/

theorem judge_of_short {buf : List Byte} {cap : Nat} (h : buf.length < 4) :
    judge buf cap = (.short, buf.length, none) :=
  if_pos h

theorem judge_of_fcsMismatch {buf : List Byte} {cap : Nat} (h : 4 ≤ buf.length)
    (hd : determineLength buf (min buf.length cap) = .fcsMismatch) : judge buf cap = (.fcs, buf.length, none) := by
  rw [judge, if_neg h.not_gt, hd]

theorem judge_of_ok {buf : List Byte} {cap l : Nat} {c : Word} (h : 4 ≤ buf.length)
    (hd : determineLength buf (min buf.length cap) = .ok l c) : judge buf cap = (.ok, l, some c) := by
  rw [judge, if_neg h.not_gt, hd]

theorem validate_of_located {data out : List Byte} {n i j : Nat} (h : locateFrame data = .ok out n i j) (cap : Nat) :
    validate data true cap = ((judge out cap).1, out, (judge out cap).2.1) := by
  rw [validate, if_pos rfl, h]

theorem validate_of_framingError {data : List Byte} (h : locateFrame data = .framingError) (cap : Nat) :
    validate data true cap = (.framing, data, data.length) := by
  rw [validate, if_pos rfl, h]

theorem validate_of_unaligned (data : List Byte) (cap : Nat) :
    validate data false cap = ((judge data cap).1, data, (judge data cap).2.1) := rfl

/-- Settles O42: the delay is undone (O36), and the detector finds the payload's length in what is left. -/
theorem validateRecoversTheFrame : Obligations.ValidateRecoversTheFrame := by
  intro p trail r cap hr hcap hno
  have hlen : (frameOf p ++ trail).length = p.length + 4 + trail.length := by
    rw [List.length_append, length_frameOf]
  have hloc := evenDelaysAreUndone (frameOf p ++ trail) 7 r (by decide) hr
  have hjudge : judge (frameOf p ++ trail) cap = (.ok, p.length, some (fcs p)) :=
    judge_of_ok (by omega) (determineLength_frameOf (by omega) (min_le_left _ _) hno)
  rw [List.append_assoc, validate_of_located hloc, hjudge]
  exact ⟨rfl, rfl, take_frameOf p trail⟩

/-- `VALIDATE` after alignment reports the judgement of the pure function, in `STATUS` and `LEN` (R181, R182). -/
theorem validateAligned_judge {u : State} {data : List Byte} (hlen : u.len.toNat = data.length) :
    ∃ t, u.validateAligned data = .next t ∧ t.err = verdictCode (judge data u.maxLen.toNat).1 ∧
      t.len.toNat = (judge data u.maxLen.toNat).2.1 ∧ t.mem = u.mem := by
  rcases lt_or_ge data.length 4 with h | h
  · rw [judge_of_short h]
    exact ⟨_, validateAligned_of_short h, rfl, hlen, rfl⟩
  · cases hd : determineLength data (min data.length u.maxLen.toNat) with
    | fcsMismatch =>
      rw [judge_of_fcsMismatch h hd]
      exact ⟨_, validateAligned_of_fcsMismatch h hd, rfl, hlen, rfl⟩
    | ok l c =>
      rw [judge_of_ok h hd]
      obtain ⟨hl, -⟩ := ((detectorReturnsTheFirstMatch data _ (min_le_left _ _)).1 l c).1 hd
      have hbound := u.len.isLt
      exact ⟨_, validateAligned_of_ok h hd, rfl, Nat.mod_eq_of_lt (by omega), rfl⟩

theorem windowBytes_getD (s : State) {k : Nat} (hk : k < s.len.toNat) :
    (windowBytes s).getD k 0 = s.mem.byteAt (s.base.toNat + k) := by
  simp [windowBytes, hk]

theorem verdictCode_eq_noError {v : Verdict} : verdictCode v = .noError ↔ v = .ok := by cases v <;> decide

theorem EndsIn.ok_eq {i : Instr} {s t : State} (h : EndsIn i s t) : t.ok = decide (t.err = .noError) := by
  cases h <;> rfl

/-- Settles O41: alignment fails, or `validateAligned_judge` judges the realigned bytes, which stand over the window's
start, or without alignment the window itself. -/
theorem validateRefinesThePureFunction : Obligations.ValidateRefinesThePureFunction := by
  rintro s ⟨-, -, ⟨hwf, -⟩, -⟩ hfits
  have hsize := length_windowBytes s
  obtain ⟨t, hrun, he, hlen, hbytes⟩ : ∃ t, execValidate s = .next t ∧
      t.err = verdictCode (validate (windowBytes s) s.alignEn s.maxLen.toNat).1 ∧
      t.len.toNat = (validate (windowBytes s) s.alignEn s.maxLen.toNat).2.2 ∧
      ∀ k, k < (validate (windowBytes s) s.alignEn s.maxLen.toNat).2.1.length →
        t.mem.byteAt (s.base.toNat + k) =
          (validate (windowBytes s) s.alignEn s.maxLen.toNat).2.1.getD k 0 := by
    cases ha : s.alignEn with
    | false =>
      obtain ⟨t, hrun, he, hlen, hmem⟩ := validateAligned_judge (u := s) hsize.symm
      rw [validate_of_unaligned]
      refine ⟨t, (execValidate_of_unaligned hfits ha).trans hrun, he, hlen, fun k hk => ?_⟩
      rw [hmem]
      exact (windowBytes_getD s (hsize ▸ hk)).symm
    | true =>
      cases hloc : locateFrame (windowBytes s) with
      | framingError =>
        rw [validate_of_framingError hloc]
        refine ⟨_, execValidate_of_framingError hfits ha hloc, rfl, hsize.symm, fun k hk => ?_⟩
        exact (windowBytes_getD s (hsize ▸ hk)).symm
      | ok out n i j =>
        rw [validate_of_located hloc]
        obtain ⟨hn, -, -, rfl⟩ := locateFrame_window_bounds ((window_eq_windowBytes s).symm ▸ hloc)
        obtain ⟨t, hrun, he, hlen, hmem⟩ :=
          validateAligned_judge (u := s.putLocated out out.length i j) (data := out) (Nat.mod_eq_of_lt hn)
        refine ⟨t, (execValidate_of_located hfits ha hloc).trans hrun, he, hlen, fun k hk => ?_⟩
        rw [hmem]
        refine (Memory.byteAt_putList hwf _ out _).trans ?_
        rw [if_pos ⟨Nat.le_add_right _ _, Nat.add_lt_add_left hk _⟩, Nat.add_sub_cancel_left]
  refine ⟨t, hrun, he, ?_, hlen, hbytes⟩
  rw [(execValidate_endsIn hrun).ok_eq, he]
  exact decide_eq_decide.2 verdictCode_eq_noError

end Sys2Proof.Proofs

/-! PROOFS, family other: the records of the queue. What a reservation and a commit leave in the record they write
(40_queue.md sections 3 and 4), and the queue as a first-in first-out sequence of records that keeps its invariants
(section 7, 10_state.md R45 and R46). -/

namespace Sys2Proof.Proofs

open Sys2Proof.Machine Sys2Proof.Claims

/-! ## Headers written and headers left alone -/

/-- The header at `o` is the same in both states (10_state.md R44). -/
def SameHeader (s t : State) (o : Nat) : Prop := t.dataBytes o = s.dataBytes o ∧ t.memBytes o = s.memBytes o

theorem sameHeader_of_mem_eq {s t : State} (h : t.mem = s.mem) (o : Nat) : SameHeader s t o := by
  simp only [SameHeader, State.dataBytes, State.memBytes, h, and_self]

theorem SameHeader.trans {s t u : State} {o : Nat} (h : SameHeader s t o) (h' : SameHeader t u o) :
    SameHeader s u o :=
  ⟨h'.1.trans h.1, h'.2.trans h.2⟩

theorem dataBytes_putHeader {s : State} (hwf : s.mem.wf = true) (off m : Nat) {d : Nat} (hd : d < 2 ^ 32) :
    (s.putHeader off d m).dataBytes off = d := by
  have hread : (s.putHeader off d m).mem.read off .four = BitVec.ofNat 32 d :=
    (Memory.read_write_off (Memory.wf_write hwf off .four _) .four _ (.inl le_rfl) .four).trans
      (Memory.read_write_four hwf off _)
  rw [State.dataBytes, hread]
  exact Nat.mod_eq_of_lt hd

theorem memBytes_putHeader {s : State} (hwf : s.mem.wf = true) (off d : Nat) {m : Nat} (hm : m < 2 ^ 32) :
    (s.putHeader off d m).memBytes off = m := by
  have hread : (s.putHeader off d m).mem.read (off + 4) .four = BitVec.ofNat 32 m :=
    Memory.read_write_four (Memory.wf_write hwf off .four _) (off + 4) _
  rw [State.memBytes, hread]
  exact Nat.mod_eq_of_lt hm

theorem sameHeader_putHeader {s : State} (hwf : s.mem.wf = true) {off o : Nat} (d m : Nat)
    (h : o + 8 ≤ off ∨ off + 8 ≤ o) : SameHeader s (s.putHeader off d m) o := by
  have hread (a : Nat) (ha : a + 4 ≤ off ∨ off + 8 ≤ a) :
      (s.putHeader off d m).mem.read a .four = s.mem.read a .four :=
    (Memory.read_write_off (Memory.wf_write hwf off .four _) .four _ (by simp only [Size.bytes]; omega) .four).trans
      (Memory.read_write_off hwf .four _ (by simp only [Size.bytes]; omega) .four)
  exact ⟨congrArg BitVec.toNat (hread o (by omega)), congrArg BitVec.toNat (hread (o + 4) (by omega))⟩

theorem dataBytes_putMemBytes {s : State} (hwf : s.mem.wf = true) (off m : Nat) :
    (s.putMemBytes off m).dataBytes off = s.dataBytes off :=
  congrArg BitVec.toNat (Memory.read_write_off hwf .four _ (.inl le_rfl) .four)

theorem memBytes_putMemBytes {s : State} (hwf : s.mem.wf = true) (off : Nat) {m : Nat} (hm : m < 2 ^ 32) :
    (s.putMemBytes off m).memBytes off = m :=
  (congrArg BitVec.toNat (Memory.read_write_four hwf (off + 4) (BitVec.ofNat 32 m))).trans (Nat.mod_eq_of_lt hm)

theorem sameHeader_putMemBytes {s : State} (hwf : s.mem.wf = true) {off o : Nat} (m : Nat)
    (h : o + 8 ≤ off ∨ off + 8 ≤ o) : SameHeader s (s.putMemBytes off m) o := by
  have hread (a : Nat) (ha : a + 4 ≤ off ∨ off + 8 ≤ a) :
      (s.putMemBytes off m).mem.read a .four = s.mem.read a .four :=
    Memory.read_write_off hwf .four _ (by simp only [Size.bytes]; omega) .four
  exact ⟨congrArg BitVec.toNat (hread o (by omega)), congrArg BitVec.toNat (hread (o + 4) (by omega))⟩

/-! ## The record of a successful QRESERVE or QCOMMIT -/

/-- The arena lies in `MEM`, so every offset in it and every size of a record is a register value (00_scope.md R8). -/
theorem cap_le {s : State} (hcfg : s.cfg.wf) (hcap : s.qcap.toNat ≤ s.cfg.memSize) : s.qcap.toNat ≤ 2 ^ 31 := by
  obtain ⟨-, -, hsize, -⟩ := hcfg
  omega

theorem qtail_reserved (s : State) (off f : Nat) : (s.reserved off f).qtail = BitVec.ofNat 32 off := by
  rw [State.reserved_eq]

theorem qcap_reserved (s : State) (off f : Nat) : (s.reserved off f).qcap = s.qcap := by
  rw [State.reserved_eq]

/-- A reservation writes the header at its own offset and no other. -/
theorem sameHeader_putHeader_reserved (s : State) (off f o : Nat) :
    SameHeader (s.putHeader off s.arg.toNat f) (s.reserved off f) o :=
  sameHeader_of_mem_eq (mem_reserved s off f) o

theorem memBytes_reserved {s : State} (hwf : s.mem.wf = true) (off : Nat) {f : Nat} (hf : f < 2 ^ 32) :
    (s.reserved off f).memBytes off = f :=
  (sameHeader_putHeader_reserved s off f off).2.trans (memBytes_putHeader hwf off s.arg.toNat hf)

theorem dataBytes_reserved {s : State} (hwf : s.mem.wf = true) (off f : Nat) :
    (s.reserved off f).dataBytes off = s.arg.toNat :=
  (sameHeader_putHeader_reserved s off f off).1.trans (dataBytes_putHeader hwf off f s.arg.isLt)

theorem sameHeader_reserved {s : State} (hwf : s.mem.wf = true) {off o : Nat} (f : Nat)
    (h : o + 8 ≤ off ∨ off + 8 ≤ o) : SameHeader s (s.reserved off f) o :=
  (sameHeader_putHeader hwf s.arg.toNat f h).trans (sameHeader_putHeader_reserved s off f o)

/-- Completing touches no header. -/
theorem sameHeader_complete (s : State) (e : ErrCode) (o : Nat) : SameHeader s (s.complete e) o :=
  sameHeader_of_mem_eq rfl o

/-- Settles O46: the placed record (`execQreserve_placed`) has the footprint as its size and ends inside the arena; a
failure is one of the ends of `EndsIn` that count no drop. -/
theorem qreserveNeverSplitsARecord : Obligations.QreserveNeverSplitsARecord := by
  rintro s t ⟨hcfg, -, ⟨hwf, -⟩, hregs, -⟩ hrun
  have ⟨_, hle, _⟩ := hregs
  have hcap := cap_le hcfg hle
  refine ⟨fun he => ?_, fun he => (exec_endsIn hrun).eq_ended he nofun⟩
  obtain ⟨off, pad, hoff4, hoff, rfl⟩ := execQreserve_placed hregs hrun he
  obtain ⟨m, hm, hwfm, -⟩ := padTail_spec hwf pad
  have hcomplete := sameHeader_complete ((s.setMem m).reserved off (footprint s.arg.toNat)) .noError off
  have hdata := hcomplete.1.trans (dataBytes_reserved (s := s.setMem m) hwfm off _)
  have hmem := hcomplete.2.trans (memBytes_reserved (s := s.setMem m) hwfm off (by omega))
  have htail : (BitVec.ofNat 32 off).toNat = off := Nat.mod_eq_of_lt (by omega)
  rw [hm, ← dataBytes_eq_dataField, ← memBytes_eq_memField, State.complete_qtail, State.complete_qcap, qtail_reserved,
    qcap_reserved, htail, hdata, hmem]
  exact ⟨rfl, rfl, hoff4, hoff⟩

/-- The size `QCOMMIT` writes is not larger than before, a multiple of 4, and enough for header and data (R117). -/
theorem committed_size {m d a : Nat} (h4 : m % 4 = 0) (hd : 8 + d ≤ m) (ha : a ≤ d) :
    m - dn4 (d - a) ≤ m ∧ (m - dn4 (d - a)) % 4 = 0 ∧ 8 + a ≤ m - dn4 (d - a) := by
  have h := dn4_mod (d - a)
  have hle := dn4_le (d - a)
  omega

theorem sameHeader_committed {s : State} (hwf : s.mem.wf = true) {o : Nat}
    (h : o + 8 ≤ s.recd.toNat ∨ s.recd.toNat + 8 ≤ o) : SameHeader s s.committed o :=
  (sameHeader_putHeader hwf _ _ h).trans (sameHeader_of_mem_eq (mem_committed s) o)

theorem header_committed {s : State} (hwf : s.mem.wf = true) :
    s.committed.dataBytes s.recd.toNat = s.arg.toNat ∧ s.committed.memBytes s.recd.toNat =
      s.memBytes s.recd.toNat - dn4 (s.dataBytes s.recd.toNat - s.arg.toNat) := by
  obtain ⟨hdata, hmem⟩ := sameHeader_of_mem_eq (mem_committed s) s.recd.toNat
  have hlt : s.memBytes s.recd.toNat - dn4 (s.dataBytes s.recd.toNat - s.arg.toNat) < 2 ^ 32 :=
    (Nat.sub_le _ _).trans_lt (s.mem.read _ .four).isLt
  exact ⟨hdata.trans (dataBytes_putHeader hwf _ _ s.arg.isLt), hmem.trans (memBytes_putHeader hwf _ _ hlt)⟩

/-- Settles O48: a success has written the header as `header_committed` says, with the size of `committed_size`. -/
theorem qcommitNeverGrowsTheRecord : Obligations.QcommitNeverGrowsTheRecord := by
  rintro s t ⟨-, -, ⟨hwf, -⟩, -⟩ hrun he
  rcases execQcommit_next hrun with ⟨-, rfl⟩ | ⟨-, -, -, rfl⟩ | ⟨-, -, -, -, rfl⟩ | ⟨-, -, hok, -, hle, rfl⟩
  · cases he
  · cases he
  · cases he
  · obtain ⟨hdata, hmem⟩ := header_committed hwf
    obtain ⟨hdata', hmem'⟩ := sameHeader_complete s.committed .noError s.recd.toNat
    obtain ⟨-, -, hm4, hd, -⟩ := hok
    rw [← dataBytes_eq_dataField, ← memBytes_eq_memField, ← memBytes_eq_memField, hdata', hmem', hdata, hmem]
    exact ⟨rfl, committed_size hm4 hd hle⟩

end Sys2Proof.Proofs

/-! PROOFS, family other: the queue is first-in first-out and keeps its invariants (40_queue.md section 7, 10_state.md
R45 and R46). -/

namespace Sys2Proof.Proofs

open Sys2Proof.Machine Sys2Proof.Claims

/-! ## The walk from head to tail -/

/-- The walk ends at the tail. -/
theorem tail_mem_of_walk {s : State} {o : Nat} {rest : List Nat} (h : s.walk o rest) : s.qtail.toNat ∈ o :: rest := by
  induction rest generalizing o with
  | nil => exact List.mem_singleton.2 (Eq.symm h)
  | cons o' rest ih =>
    obtain ⟨-, -, h⟩ := h
    exact List.mem_cons_of_mem o (ih h)

/-- The walk reads the sizes of the records before the tail. -/
theorem walk_congr {s t : State} (hcap : t.qcap = s.qcap) (htail : t.qtail = s.qtail) {o : Nat} {rest : List Nat}
    (hsame : ∀ x ∈ o :: rest, x ≠ s.qtail.toNat → t.memBytes x = s.memBytes x) (h : s.walk o rest) :
    t.walk o rest := by
  induction rest generalizing o with
  | nil => exact h.trans (congrArg BitVec.toNat htail.symm)
  | cons o' rest ih =>
    obtain ⟨hne, hnext, h⟩ := h
    refine ⟨htail ▸ hne, ?_, ih (fun x hx => hsame x (List.mem_cons_of_mem o hx)) h⟩
    rw [hsame o List.mem_cons_self hne, hcap]
    exact hnext

/-- A new tail at the write position prolongs the walk by one record. -/
theorem walk_concat {s t : State} {off : Nat} (hcap : t.qcap = s.qcap) (htail : t.qtail.toNat = off)
    (hwp : off = s.writePos) {o : Nat} {rest : List Nat}
    (hold : ∀ x ∈ o :: rest, x ≠ off ∧ t.memBytes x = s.memBytes x) (h : s.walk o rest) :
    t.walk o (rest ++ [off]) := by
  induction rest generalizing o with
  | nil =>
    obtain ⟨hne, hmem⟩ := hold o List.mem_cons_self
    obtain rfl : o = s.qtail.toNat := h
    refine ⟨htail ▸ hne, ?_, htail.symm⟩
    rw [hmem, hcap]
    exact hwp
  | cons o' rest ih =>
    obtain ⟨hne, hmem⟩ := hold o List.mem_cons_self
    obtain ⟨-, hnext, h⟩ := h
    refine ⟨htail ▸ hne, ?_, ih (fun x hx => hold x (List.mem_cons_of_mem o hx)) h⟩
    rw [hmem, hcap]
    exact hnext

theorem SameRing.live {s t : State} (hring : SameRing s t) {recs : List Nat}
    (hsame : ∀ x ∈ recs, x ≠ s.qtail.toNat → t.memBytes x = s.memBytes x) (h : s.live recs) : t.live recs := by
  obtain ⟨-, hcap, hhead, htail⟩ := hring
  cases recs with
  | nil =>
    rw [State.live, hhead, htail]
    exact h
  | cons o rest =>
    obtain ⟨hh, ht, ho, hwalk⟩ := h
    exact ⟨hhead ▸ hh, htail ▸ ht, hhead ▸ ho, walk_congr hcap htail hsame hwalk⟩

/-! ## What the live records occupy -/

/-- Where the tail's record ends. -/
def tailEnd (s : State) : Nat := s.qtail.toNat + s.memBytes s.qtail.toNat

theorem writePos_eq_tailEnd (s : State) : s.writePos = tailEnd s % s.qcap.toNat := rfl

/-- The records from `o` to the tail occupy one stretch of the arena, `[o, tailEnd)`, or, around the arena end, the two
stretches `[o, QCAP)` and `[0, tailEnd)`, and fill them. -/
def Spans (s : State) (o : Nat) (recs : List Nat) : Prop :=
  ((∀ x ∈ recs, o ≤ x ∧ x + s.memBytes x ≤ tailEnd s) ∧ s.occupied recs + o = tailEnd s) ∨
    (tailEnd s ≤ o ∧ (∀ x ∈ recs, o ≤ x ∨ x + s.memBytes x ≤ tailEnd s) ∧
      s.occupied recs + o = s.qcap.toNat + tailEnd s)

theorem occupied_cons (s : State) (o : Nat) (recs : List Nat) :
    s.occupied (o :: recs) = s.memBytes o + s.occupied recs := by
  rw [State.occupied, List.map_cons, List.sum_cons, State.occupied]

/-- A sane record is at least as large as its header and ends inside the arena (40_queue.md R111). -/
theorem hdrOk_bounds {s : State} {o : Nat} (h : s.hdrOk o) :
    8 ≤ s.memBytes o ∧ o + s.memBytes o ≤ s.qcap.toNat := by
  obtain ⟨-, -, -, hdata, hend⟩ := h
  exact ⟨(Nat.le_add_right 8 _).trans hdata, hend⟩

/-- One record in front of the others: it ends where they begin, or at the arena end while they begin at 0. -/
theorem Spans.cons {s : State} {o o' : Nat} {recs : List Nat} (ho : s.hdrOk o) (htail : s.hdrOk s.qtail.toNat)
    (hapart : s.apart o s.qtail.toNat) (hnext : o' = (o + s.memBytes o) % s.qcap.toNat)
    (htailmem : s.qtail.toNat ∈ recs) (h : Spans s o' recs) : Spans s o (o :: recs) := by
  obtain ⟨ho8, hocap⟩ := hdrOk_bounds ho
  obtain ⟨ht8, htcap⟩ := hdrOk_bounds htail
  have hend : tailEnd s = s.qtail.toNat + s.memBytes s.qtail.toNat := rfl
  unfold State.apart at hapart
  unfold Spans
  rw [occupied_cons, List.forall_mem_cons, List.forall_mem_cons]
  rcases hocap.lt_or_eq with hlt | heq
  · rw [Nat.mod_eq_of_lt hlt] at hnext
    rcases h with ⟨hall, hsum⟩ | ⟨hle, hall, hsum⟩
    · obtain ⟨hot, -⟩ := hall _ htailmem
      exact .inl ⟨⟨by omega, fun x hx => (hall x hx).imp_left (by omega)⟩, by omega⟩
    · exact .inr ⟨by omega, ⟨.inl le_rfl, fun x hx => (hall x hx).imp_left (by omega)⟩, by omega⟩
  · rw [heq, Nat.mod_self] at hnext
    rcases h with ⟨hall, hsum⟩ | ⟨hle, -, -⟩
    · exact .inr ⟨by omega, ⟨.inl le_rfl, fun x hx => .inr (hall x hx).2⟩, by omega⟩
    · omega

/-- The live records fill one stretch of the arena, or two around its end: the walk passes the end at most once, because
the records do not overlap (R45, R46 (5)). -/
theorem spans_of_walk {s : State} {o : Nat} {rest : List Nat} (hwalk : s.walk o rest)
    (hok : ∀ x ∈ o :: rest, s.hdrOk x) (hapart : (o :: rest).Pairwise s.apart) : Spans s o (o :: rest) := by
  induction rest generalizing o with
  | nil =>
    obtain rfl : o = s.qtail.toNat := hwalk
    refine .inl ⟨fun x hx => ?_, ?_⟩
    · obtain rfl := List.mem_singleton.1 hx
      exact ⟨le_rfl, le_rfl⟩
    · rw [occupied_cons, tailEnd, Nat.add_comm]
      rfl
  | cons o' rest ih =>
    obtain ⟨-, hnext, hwalk⟩ := hwalk
    obtain ⟨ho, hok⟩ := List.forall_mem_cons.1 hok
    obtain ⟨hoapart, hapart⟩ := List.pairwise_cons.1 hapart
    have htail := tail_mem_of_walk hwalk
    exact .cons ho (hok _ htail) (hoapart _ htail) hnext htail (ih hwalk hok hapart)

/-! ## Where a new record fits -/

/-- `[off, off + f)` is a place for a record: word-aligned, inside the arena, clear of every live record, and no more
than the records leave of the arena. -/
structure FreeAt (s : State) (recs : List Nat) (off f : Nat) : Prop where
  aligned : off % 4 = 0
  inside : off + f ≤ s.qcap.toNat
  clear : ∀ x ∈ recs, x + s.memBytes x ≤ off ∨ off + f ≤ x
  sum : s.occupied recs + f ≤ s.qcap.toNat

/-- With the head in front of the write position the records fill `[QHEAD, tailEnd)`. -/
theorem spans_of_head_lt {s : State} {recs : List Nat} (h : Spans s s.qhead.toNat recs)
    (hend : tailEnd s ≤ s.qcap.toNat) (hlt : s.qhead.toNat < s.writePos) :
    tailEnd s = s.writePos ∧ (∀ x ∈ recs, s.qhead.toNat ≤ x ∧ x + s.memBytes x ≤ tailEnd s) ∧
      s.occupied recs + s.qhead.toNat = tailEnd s := by
  rw [writePos_eq_tailEnd] at hlt ⊢
  rcases hend.lt_or_eq with hend | hend
  · rw [Nat.mod_eq_of_lt hend] at hlt ⊢
    rcases h with ⟨hall, hsum⟩ | ⟨hle, -, -⟩
    · exact ⟨rfl, hall, hsum⟩
    · omega
  · rw [hend, Nat.mod_self] at hlt
    omega

/-- With the head behind the write position `[writePos, QHEAD)` is free. -/
theorem free_of_lt_head {s : State} {recs : List Nat} (h : Spans s s.qhead.toNat recs)
    (hhead : s.qhead.toNat < s.qcap.toNat) (hend : tailEnd s ≤ s.qcap.toNat) (hlt : s.writePos < s.qhead.toNat) :
    (∀ x ∈ recs, x + s.memBytes x ≤ s.writePos ∨ s.qhead.toNat ≤ x) ∧
      s.occupied recs + s.qhead.toNat = s.qcap.toNat + s.writePos := by
  rw [writePos_eq_tailEnd] at hlt ⊢
  rcases hend.lt_or_eq with hend | hend
  · rw [Nat.mod_eq_of_lt hend] at hlt ⊢
    rcases h with ⟨-, hsum⟩ | ⟨-, hall, hsum⟩
    · omega
    · exact ⟨fun x hx => (hall x hx).symm, hsum⟩
  · rw [hend, Nat.mod_self] at hlt ⊢
    rcases h with ⟨hall, hsum⟩ | ⟨hle, -, -⟩
    · exact ⟨fun x hx => .inr (hall x hx).1, by omega⟩
    · omega

/-! ## States with the same records -/

theorem hdrOk_of_sameHeader {s t : State} {o : Nat} (hcap : t.qcap = s.qcap) (h : SameHeader s t o) (hok : s.hdrOk o) :
    t.hdrOk o := by
  rw [State.hdrOk, hcap, h.1, h.2]
  exact hok

/-- The queue invariants hold again if only the tail's header has changed, and its record has not grown. -/
theorem queueInv_of_tail_shrinks {s t : State} {recs : List Nat} (hring : SameRing s t)
    (hsame : ∀ o ∈ recs, o ≠ s.qtail.toNat → SameHeader s t o)
    (hshrinks : s.qtail.toNat ∈ recs →
      t.hdrOk s.qtail.toNat ∧ t.memBytes s.qtail.toNat ≤ s.memBytes s.qtail.toNat)
    (h : s.QueueInv recs) : t.QueueInv recs := by
  have hle (o : Nat) (ho : o ∈ recs) : t.memBytes o ≤ s.memBytes o := by
    by_cases htl : o = s.qtail.toNat
    · subst htl
      exact (hshrinks ho).2
    · exact (hsame o ho htl).2.le
  refine ⟨hring.live (fun o ho htl => (hsame o ho htl).2) h.live, fun o ho => ?_, ?_, ?_, ?_⟩
  · by_cases htl : o = s.qtail.toNat
    · subst htl
      exact (hshrinks ho).1
    · exact hdrOk_of_sameHeader hring.cap (hsame o ho htl) (h.headers o ho)
  · refine h.apart.imp_of_mem fun {a b} ha hb hab => ?_
    exact hab.imp (fun hab => by have := hle a ha; omega) fun hab => by have := hle b hb; omega
  · rw [hring.cap]
    exact (List.sum_le_sum hle).trans h.sum
  · rw [hring.cap, hring.cfg]
    exact h.cap

/-- The queue invariants are about `MEM`, the build and three registers. -/
theorem queueInv_congr {s t : State} {recs : List Nat} (hring : SameRing s t) (hmem : t.mem = s.mem)
    (h : s.QueueInv recs) : t.QueueInv recs :=
  queueInv_of_tail_shrinks hring (fun o _ _ => sameHeader_of_mem_eq hmem o)
    (fun ht => ⟨hdrOk_of_sameHeader hring.cap (sameHeader_of_mem_eq hmem _) (h.headers _ ht),
      (sameHeader_of_mem_eq hmem _).2.le⟩) h

theorem queueInv_complete {s : State} {recs : List Nat} (e : ErrCode) (h : s.QueueInv recs) :
    (s.complete e).QueueInv recs :=
  queueInv_congr (s := s) ⟨rfl, rfl, rfl, rfl⟩ rfl h

/-- An arena of this capacity without a record. -/
theorem queueInv_nil {s : State} (hhead : s.qhead = noneOffset) (htail : s.qtail = noneOffset)
    (h4 : s.qcap.toNat % 4 = 0) (hle : s.qcap.toNat ≤ s.cfg.memSize) : s.QueueInv [] :=
  ⟨⟨hhead, htail⟩, nofun, .nil, Nat.zero_le _, ⟨h4, hle⟩⟩

/-- The live records of a non-empty queue fill what `Spans` says, from the head on. -/
theorem spans_of_live {s : State} {recs : List Nat} (hq : s.qhead ≠ noneOffset) (hlive : s.live recs)
    (hok : ∀ o ∈ recs, s.hdrOk o) (hapart : recs.Pairwise s.apart) :
    Spans s s.qhead.toNat recs ∧ s.qhead.toNat ∈ recs ∧ s.qtail.toNat ∈ recs := by
  cases recs with
  | nil => exact absurd hlive.1 hq
  | cons o rest =>
    obtain ⟨-, -, rfl, hwalk⟩ := hlive
    exact ⟨spans_of_walk hwalk hok hapart, List.mem_cons_self, tail_mem_of_walk hwalk⟩

/-- Two different live records do not overlap. -/
theorem apart_of_ne {s : State} {recs : List Nat} (h : recs.Pairwise s.apart) {a b : Nat} (ha : a ∈ recs)
    (hb : b ∈ recs) (hne : a ≠ b) : s.apart a b :=
  have : Std.Symm s.apart := ⟨fun _ _ => Or.symm⟩
  h.forall ha hb hne

/-! ## QRESERVE -/

theorem cap_le_of_queueInv {s : State} (hcfg : s.cfg.wf) {recs : List Nat} (h : s.QueueInv recs) :
    s.qcap.toNat ≤ 2 ^ 31 :=
  cap_le hcfg h.cap.2

/-- A record reserved in a free place joins the live records at their end. -/
theorem reserved_queueInv {s : State} {recs : List Nat} (hcfg : s.cfg.wf) (hwf : s.mem.wf = true) {off f : Nat}
    (h : s.QueueInv recs) (hfree : FreeAt s recs off f) (hf4 : f % 4 = 0) (hf : 8 + s.arg.toNat ≤ f)
    (hlive : (s.reserved off f).live (recs ++ [off])) : (s.reserved off f).QueueInv (recs ++ [off]) := by
  obtain ⟨hoff4, hend, hclear, hsum⟩ := hfree
  have hcap := cap_le_of_queueInv hcfg h
  have hmem : (s.reserved off f).memBytes off = f := memBytes_reserved hwf off (by omega)
  have hdata : (s.reserved off f).dataBytes off = s.arg.toNat := dataBytes_reserved hwf off f
  have hsame (x : Nat) (hx : x ∈ recs) : SameHeader s (s.reserved off f) x := by
    obtain ⟨hx8, -⟩ := hdrOk_bounds (h.headers x hx)
    have hfree := hclear x hx
    exact sameHeader_reserved hwf f (by omega)
  have hqcap := qcap_reserved s off f
  refine ⟨hlive, fun x hx => ?_, ?_, ?_, ?_⟩
  · rcases List.mem_append.1 hx with hx | hx
    · exact hdrOk_of_sameHeader hqcap (hsame x hx) (h.headers x hx)
    · obtain rfl := List.mem_singleton.1 hx
      rw [State.hdrOk, hmem, hdata, hqcap]
      exact ⟨hoff4, by simp only [hdrBytes]; omega, hf4, hf, hend⟩
  · refine List.pairwise_append.2 ⟨h.apart.imp_of_mem fun {a b} ha hb hab => ?_, List.pairwise_singleton _ _,
      fun a ha b hb => ?_⟩
    · rw [State.apart, (hsame a ha).2, (hsame b hb).2]
      exact hab
    · obtain rfl := List.mem_singleton.1 hb
      rw [State.apart, (hsame a ha).2, hmem]
      exact hclear a ha
  · have hold : (s.reserved off f).occupied recs = s.occupied recs :=
      congrArg List.sum (List.map_congr_left fun x hx => (hsame x hx).2)
    have hnew : (s.reserved off f).occupied (recs ++ [off]) = (s.reserved off f).occupied recs + f := by
      simp [State.occupied, hmem]
    rw [hnew, hold, hqcap]
    exact hsum
  · rw [State.reserved_eq]
    exact h.cap

/-- In a non-empty queue the free place is the one at the write position. -/
theorem reserved_live {s : State} {recs : List Nat} (hcfg : s.cfg.wf) (hwf : s.mem.wf = true) {off f : Nat}
    (h : s.QueueInv recs) (hq : s.qhead ≠ noneOffset) (hf : 8 ≤ f) (hfree : FreeAt s recs off f)
    (hwp : off = s.writePos) : (s.reserved off f).live (recs ++ [off]) := by
  have hcap := cap_le_of_queueInv hcfg h
  obtain ⟨-, hend, hclear, -⟩ := hfree
  have hoff : (BitVec.ofNat 32 off).toNat = off := Nat.mod_eq_of_lt (by omega)
  have htail : (s.reserved off f).qtail.toNat = off := by rw [qtail_reserved, hoff]
  have hhead : (s.reserved off f).qhead = s.qhead := by rw [State.reserved_eq, if_neg hq]
  have hold (x : Nat) (hx : x ∈ recs) : x ≠ off ∧ (s.reserved off f).memBytes x = s.memBytes x := by
    obtain ⟨hx8, -⟩ := hdrOk_bounds (h.headers x hx)
    have hclear := hclear x hx
    exact ⟨by omega, (sameHeader_reserved hwf f (by omega)).2⟩
  have hnone : (s.reserved off f).qtail ≠ noneOffset := fun hnone => by
    have hmax : (s.reserved off f).qtail.toNat = 0xFFFFFFFF := congrArg BitVec.toNat hnone
    omega
  obtain ⟨hlive, -⟩ := h
  cases recs with
  | nil => exact absurd hlive.1 hq
  | cons o rest =>
    obtain ⟨-, -, ho, hwalk⟩ := hlive
    rw [List.cons_append, State.live, hhead]
    exact ⟨hq, hnone, ho, walk_concat (qcap_reserved s off f) htail hwp hold hwalk⟩

/-- Padding the tail writes the size of its record alone. -/
theorem header_padTail {s : State} (hwf : s.mem.wf = true) {pad : Nat} (hpos : 0 < pad)
    (hsize : s.memBytes s.qtail.toNat + pad < 2 ^ 32) :
    (s.padTail pad).dataBytes s.qtail.toNat = s.dataBytes s.qtail.toNat ∧
      (s.padTail pad).memBytes s.qtail.toNat = s.memBytes s.qtail.toNat + pad ∧
      ∀ x, x + 8 ≤ s.qtail.toNat ∨ s.qtail.toNat + 8 ≤ x → SameHeader s (s.padTail pad) x := by
  rw [State.padTail_pos s hpos]
  exact ⟨dataBytes_putMemBytes hwf _ _, memBytes_putMemBytes hwf _ hsize, fun x => sameHeader_putMemBytes hwf _⟩

/-- A record that ends no later than the tail's ends no later than the tail begins. -/
theorem end_le_tail {s : State} {recs : List Nat} (h : s.QueueInv recs) (htail : s.qtail.toNat ∈ recs) {x : Nat}
    (hx : x ∈ recs) (hne : x ≠ s.qtail.toNat) (hend : x + s.memBytes x ≤ tailEnd s) :
    x + s.memBytes x ≤ s.qtail.toNat := by
  obtain ⟨hx8, -⟩ := hdrOk_bounds (h.headers x hx)
  have hapart := apart_of_ne h.apart hx htail hne
  unfold State.apart at hapart
  unfold tailEnd at hend
  omega

/-- `u` is `s` with the tail's record grown by `pad` up to the arena end, as far as the live records show. -/
structure TailPadded (s u : State) (recs : List Nat) (pad : Nat) : Prop where
  ring : SameRing s u
  same : ∀ x ∈ recs, x ≠ s.qtail.toNat → SameHeader s u x
  data : u.dataBytes s.qtail.toNat = s.dataBytes s.qtail.toNat
  size : u.memBytes s.qtail.toNat = s.memBytes s.qtail.toNat + pad
  fills : tailEnd s + pad = s.qcap.toNat

theorem TailPadded.tailEnd_eq {s u : State} {recs : List Nat} {pad : Nat} (hp : TailPadded s u recs pad) :
    tailEnd u = s.qcap.toNat := by
  rw [tailEnd, hp.ring.tail, hp.size, ← Nat.add_assoc]
  exact hp.fills

theorem TailPadded.headers {s u : State} {recs : List Nat} {pad : Nat} (hp : TailPadded s u recs pad)
    (h : s.QueueInv recs) : ∀ x ∈ recs, u.hdrOk x := by
  intro x hx
  by_cases hne : x = s.qtail.toNat
  · subst hne
    obtain ⟨htail4, htail8, hm4, hd, htailcap⟩ := h.headers _ hx
    obtain ⟨hcap4, -⟩ := h.cap
    have hfills := hp.fills
    unfold tailEnd at hfills
    rw [State.hdrOk, hp.data, hp.size, hp.ring.cap]
    exact ⟨htail4, htail8, by omega, hd.trans (Nat.le_add_right _ _), by omega⟩
  · exact hdrOk_of_sameHeader hp.ring.cap (hp.same x hx hne) (h.headers x hx)

/-- The pad overlaps no record, where all of them end no later than the tail's. -/
theorem TailPadded.apart {s u : State} {recs : List Nat} {pad : Nat} (hp : TailPadded s u recs pad)
    (h : s.QueueInv recs) (htail : s.qtail.toNat ∈ recs) (hall : ∀ x ∈ recs, x + s.memBytes x ≤ tailEnd s) :
    recs.Pairwise u.apart := by
  refine h.apart.imp_of_mem fun {a b} ha hb hab => ?_
  unfold State.apart at hab ⊢
  by_cases hat : a = s.qtail.toNat
  · by_cases hbt : b = s.qtail.toNat
    · obtain ⟨ha8, -⟩ := hdrOk_bounds (h.headers a ha)
      obtain ⟨hb8, -⟩ := hdrOk_bounds (h.headers b hb)
      omega
    · rw [(hp.same b hb hbt).2, hat]
      exact .inr (end_le_tail h htail hb hbt (hall b hb))
  · rw [(hp.same a ha hat).2]
    by_cases hbt : b = s.qtail.toNat
    · exact .inl (hbt ▸ end_le_tail h htail ha hat (hall a ha))
    · rw [(hp.same b hb hbt).2]
      exact hab

/-- With the tail padded the records fill `[QHEAD, QCAP)`, where all of them ended no later than the tail's. -/
theorem TailPadded.queueInv {s u : State} {recs : List Nat} {pad : Nat} (hp : TailPadded s u recs pad)
    (h : s.QueueInv recs) (hq : s.qhead ≠ noneOffset) (hall : ∀ x ∈ recs, x + s.memBytes x ≤ tailEnd s) :
    u.QueueInv recs ∧ (∀ x ∈ recs, s.qhead.toNat ≤ x) ∧ u.occupied recs + s.qhead.toNat = s.qcap.toNat := by
  obtain ⟨-, hheadmem, htailmem⟩ := spans_of_live hq h.live h.headers h.apart
  obtain ⟨hheadsize, hheadend⟩ := hdrOk_bounds (h.headers _ hheadmem)
  have hlive : u.live recs := hp.ring.live (fun x hx hne => (hp.same x hx hne).2) h.live
  have hok := hp.headers h
  have hapart := hp.apart h htailmem hall
  have ⟨hcfg, hcap, hhead, _⟩ := hp.ring
  have hend := hp.tailEnd_eq
  obtain ⟨hspans, -⟩ := spans_of_live (hhead ▸ hq) hlive hok hapart
  rw [hhead] at hspans
  rcases hspans with ⟨hfrom, hsum⟩ | ⟨hle, -, -⟩
  · have hfull : u.occupied recs + s.qhead.toNat = s.qcap.toNat := hsum.trans hend
    exact ⟨⟨hlive, hok, hapart, by rw [hcap]; omega, by rw [hcap, hcfg]; exact h.cap⟩,
      fun x hx => (hfrom x hx).1, hfull⟩
  · omega

/-- Padding the tail for a placement at 0 keeps the queue invariants, and `[0, QHEAD)` is the free place then (R114). -/
theorem padTail_queueInv {s : State} {recs : List Nat} (hcfg : s.cfg.wf) (hwf : s.mem.wf = true)
    (h : s.QueueInv recs) (hq : s.qhead ≠ noneOffset) (hlt : s.qhead.toNat < s.writePos) {f : Nat}
    (hf : f ≤ s.qhead.toNat) :
    (s.padTail (s.qcap.toNat - s.writePos)).QueueInv recs ∧
      FreeAt (s.padTail (s.qcap.toNat - s.writePos)) recs 0 f ∧
      0 = (s.padTail (s.qcap.toNat - s.writePos)).writePos ∧
      ∀ x ∈ recs, x ≠ s.qtail.toNat → SameHeader s (s.padTail (s.qcap.toNat - s.writePos)) x := by
  have hcap := cap_le_of_queueInv hcfg h
  obtain ⟨hspans, hheadmem, htailmem⟩ := spans_of_live hq h.live h.headers h.apart
  obtain ⟨hheadsize, hheadend⟩ := hdrOk_bounds (h.headers _ hheadmem)
  obtain ⟨htailsize, htailend⟩ := hdrOk_bounds (h.headers _ htailmem)
  obtain ⟨hend, hall, -⟩ := spans_of_head_lt hspans htailend hlt
  have hall (x : Nat) (hx : x ∈ recs) : x + s.memBytes x ≤ tailEnd s := (hall x hx).2
  have hwp : s.writePos < s.qcap.toNat := Nat.mod_lt _ (by omega)
  have hte : tailEnd s = s.qtail.toNat + s.memBytes s.qtail.toNat := rfl
  rw [← hend] at hwp ⊢
  generalize hpad : s.qcap.toNat - tailEnd s = pad
  obtain ⟨hdata, hmem, hsame⟩ := header_padTail hwf (pad := pad) (by omega) (by omega)
  have hsame (x : Nat) (hx : x ∈ recs) (hne : x ≠ s.qtail.toNat) : SameHeader s (s.padTail pad) x := by
    obtain ⟨hx8, -⟩ := hdrOk_bounds (h.headers x hx)
    have hxt := end_le_tail h htailmem hx hne (hall x hx)
    exact hsame x (by omega)
  obtain ⟨m, hm⟩ := s.padTail_eq_setMem pad
  rw [hm] at hdata hmem hsame ⊢
  have hp : TailPadded s (s.setMem m) recs pad := ⟨⟨rfl, rfl, rfl, rfl⟩, hsame, hdata, hmem, by omega⟩
  obtain ⟨hinv, hfirst, hsum⟩ := hp.queueInv h hq hall
  have hfree : FreeAt (s.setMem m) recs 0 f :=
    ⟨rfl, by rw [State.setMem_qcap]; omega, fun x hx => .inr (by have := hfirst x hx; omega),
      by rw [State.setMem_qcap]; omega⟩
  refine ⟨hinv, hfree, ?_, hsame⟩
  rw [writePos_eq_tailEnd, hp.tailEnd_eq, State.setMem_qcap, Nat.mod_self]

/-- `QRESERVE` places a record of a non-empty queue at the write position, which is free, once the tail has been
padded. -/
theorem freeAt_of_place {s : State} {recs : List Nat} (hcfg : s.cfg.wf) (hwf : s.mem.wf = true)
    (h : s.QueueInv recs) (hq : s.qhead ≠ noneOffset) {strict : Bool} {f off pad : Nat}
    (hplace : place strict f s.qcap.toNat s.qhead.toNat s.writePos = some (off, pad)) :
    (s.padTail pad).QueueInv recs ∧ FreeAt (s.padTail pad) recs off f ∧ off = (s.padTail pad).writePos ∧
      ∀ x ∈ recs, x ≠ s.qtail.toNat → SameHeader s (s.padTail pad) x := by
  obtain ⟨hspans, hheadmem, htailmem⟩ := spans_of_live hq h.live h.headers h.apart
  obtain ⟨hheadsize, hheadend⟩ := hdrOk_bounds (h.headers _ hheadmem)
  obtain ⟨htail4, -, hm4, -, htailend⟩ := h.headers _ htailmem
  have hwp : s.writePos < s.qcap.toNat := Nat.mod_lt _ (by omega)
  have hwp4 : s.writePos % 4 = 0 := mod_cap_aligned (by omega) h.cap.1
  have hsame (x : Nat) (_ : x ∈ recs) (_ : x ≠ s.qtail.toNat) : SameHeader s (s.padTail 0) x :=
    sameHeader_of_mem_eq rfl x
  rcases place_some hplace with ⟨rfl, rfl, hlt, hroom⟩ | ⟨rfl, rfl, hlt, hroom⟩ | ⟨rfl, rfl, hlt, hroom⟩
  · obtain ⟨hend, hall, hsum⟩ := spans_of_head_lt hspans htailend hlt
    have hfree : FreeAt s recs s.writePos f :=
      ⟨hwp4, by omega, fun x hx => .inl (hend ▸ (hall x hx).2), by omega⟩
    exact ⟨h, hfree, rfl, hsame⟩
  · exact padTail_queueInv hcfg hwf h hq hlt hroom
  · obtain ⟨hall, hsum⟩ := free_of_lt_head hspans (by omega) htailend hlt
    have hfree : FreeAt s recs s.writePos f :=
      ⟨hwp4, by omega, fun x hx => (hall x hx).imp_right (by omega), by omega⟩
    exact ⟨h, hfree, rfl, hsame⟩

/-! ## The queue commands on the live records -/

/-- The answer `t` of the queue command `i` from `s` is that of a first-in first-out queue: of `recs` it makes `recs'`,
and the queue invariants hold again (40_queue.md section 7). -/
structure FifoAnswer (i : Instr) (s : State) (recs : List Nat) (t : State) (recs' : List Nat) : Prop where
  inv : t.QueueInv recs'
  init : i = .qinit → t.err = .noError → recs' = []
  reserve : i = .qreserve → t.err = .noError → recs' = recs ++ [t.recd.toNat]
  consume : i = .qconsume → recs' = recs.tail
  keep : i = .qcommit ∨ i = .qpeek → recs' = recs
  fail : t.err ≠ .noError → recs' = recs
  headers : ∀ o ∈ recs, o ≠ s.qtail.toNat → SameHeader s t o

/-- A failure changes nothing but `STATUS` (60_exceptions.md R208). -/
theorem fifoAnswer_of_failure {i : Instr} {s : State} {recs : List Nat} {e : ErrCode} (h : s.QueueInv recs)
    (hi : i ≠ .qconsume) (he : e ≠ .noError) : FifoAnswer i s recs (s.complete e) recs where
  inv := queueInv_complete e h
  init _ hno := absurd hno he
  reserve _ hno := absurd hno he
  consume hc := absurd hc hi
  keep _ := rfl
  fail _ := rfl
  headers o _ _ := sameHeader_complete s e o

theorem execQinit_fifo {s t : State} {recs : List Nat} (h : s.QueueInv recs) (hrun : execQinit s = .next t) :
    ∃ recs', FifoAnswer .qinit s recs t recs' := by
  rcases execQinit_next hrun with ⟨-, rfl⟩ | ⟨h4, hle, rfl⟩
  · exact ⟨_, fifoAnswer_of_failure h nofun nofun⟩
  · exact ⟨[], {
      inv := queueInv_nil rfl rfl h4 hle
      init := fun _ _ => rfl
      reserve := nofun
      consume := nofun
      keep := by simp
      fail := fun he => absurd rfl he
      headers := fun o _ _ => sameHeader_of_mem_eq rfl o }⟩

/-- A reservation at a free place appends its record. -/
theorem fifoAnswer_of_reserved {s u : State} {recs : List Nat} {off f : Nat} (hcfg : u.cfg.wf)
    (hwf : u.mem.wf = true) (h : u.QueueInv recs) (hfree : FreeAt u recs off f) (hf4 : f % 4 = 0)
    (hf : 8 + u.arg.toNat ≤ f) (hlive : (u.reserved off f).live (recs ++ [off]))
    (hsame : ∀ x ∈ recs, x ≠ s.qtail.toNat → SameHeader s u x) :
    FifoAnswer .qreserve s recs ((u.reserved off f).complete .noError) (recs ++ [off]) where
  inv := queueInv_complete _ (reserved_queueInv hcfg hwf h hfree hf4 hf hlive)
  init := nofun
  reserve _ _ := by
    have hcap := cap_le_of_queueInv hcfg h
    have hend := hfree.inside
    have hoff : (BitVec.ofNat 32 off).toNat = off := Nat.mod_eq_of_lt (by omega)
    rw [State.complete_recd, State.reserved_eq, hoff]
  consume := nofun
  keep := by simp
  fail he := absurd rfl he
  headers x hx hne := by
    obtain ⟨hx8, -⟩ := hdrOk_bounds (h.headers x hx)
    have hclear := hfree.clear x hx
    exact ((hsame x hx hne).trans (sameHeader_reserved hwf f (by omega))).trans (sameHeader_complete _ _ x)

theorem eq_nil_of_live {s : State} {recs : List Nat} (h : s.live recs) (hq : s.qhead = noneOffset) : recs = [] := by
  cases recs with
  | nil => rfl
  | cons o rest => exact absurd hq h.1

/-- The first record of an empty queue lies at 0 and is head and tail (R114). -/
theorem reserved_live_first {s : State} (hq : s.qhead = noneOffset) (f : Nat) : (s.reserved 0 f).live [0] := by
  have hzero : (0 : Word) ≠ noneOffset := by decide
  rw [State.reserved_eq, if_pos hq]
  exact ⟨hzero, hzero, rfl, rfl⟩

theorem execQreserve_fifo {s t : State} {recs : List Nat} (hcfg : s.cfg.wf) (hwf : s.mem.wf = true)
    (h : s.QueueInv recs) (hrun : execQreserve s = .next t) : ∃ recs', FifoAnswer .qreserve s recs t recs' := by
  have hf4 := footprint_mod s.arg.toNat
  have hf : 8 + s.arg.toNat ≤ footprint s.arg.toNat := footprint_ge _
  rcases execQreserve_next hrun with
    ⟨-, -, rfl⟩ | ⟨hq, hroom, -, rfl⟩ | ⟨-, -, rfl⟩ | ⟨-, -, -, rfl⟩ | ⟨off, pad, hq, -, hplace, -, rfl⟩
  · exact ⟨_, fifoAnswer_of_failure h nofun nofun⟩
  · obtain rfl := eq_nil_of_live h.live hq
    have hfree : FreeAt s [] 0 (footprint s.arg.toNat) := ⟨rfl, by omega, nofun, by simpa [State.occupied] using hroom⟩
    exact ⟨_, fifoAnswer_of_reserved hcfg hwf h hfree hf4 hf (reserved_live_first hq _) nofun⟩
  · exact ⟨_, fifoAnswer_of_failure h nofun nofun⟩
  · exact ⟨_, fifoAnswer_of_failure h nofun nofun⟩
  · obtain ⟨hpad, hfree, hwp, hsame⟩ := freeAt_of_place hcfg hwf h hq hplace
    obtain ⟨m, hm, hwfm, -⟩ := padTail_spec hwf pad
    rw [hm] at hpad hfree hwp hsame ⊢
    have hlive := reserved_live (s := s.setMem m) hcfg hwfm hpad hq (by omega) hfree hwp
    exact ⟨_, fifoAnswer_of_reserved (u := s.setMem m) hcfg hwfm hpad hfree hf4 hf hlive hsame⟩

/-- A commit writes the tail's header alone, and does not let its record grow (R117). -/
theorem committed_queueInv {s : State} {recs : List Nat} (hwf : s.mem.wf = true) (h : s.QueueInv recs)
    (hrec : s.recd = s.qtail) (htail : s.qtail.toNat ∈ recs) (hle : s.arg.toNat ≤ s.dataBytes s.recd.toNat) :
    s.committed.QueueInv recs ∧ ∀ x ∈ recs, x ≠ s.qtail.toNat → SameHeader s s.committed x := by
  obtain ⟨hdata, hmem⟩ := header_committed hwf
  rw [hrec] at hdata hmem hle
  have hsame (x : Nat) (hx : x ∈ recs) (hne : x ≠ s.qtail.toNat) : SameHeader s s.committed x := by
    obtain ⟨hx8, -⟩ := hdrOk_bounds (h.headers x hx)
    obtain ⟨ht8, -⟩ := hdrOk_bounds (h.headers _ htail)
    have hapart := apart_of_ne h.apart hx htail hne
    unfold State.apart at hapart
    exact sameHeader_committed hwf (by rw [hrec]; omega)
  obtain ⟨htail4, htail8, hm4, hd, hend⟩ := h.headers _ htail
  obtain ⟨hshrinks, hsize4, hsize⟩ := committed_size hm4 hd hle
  have hring : SameRing s s.committed := by
    rw [State.committed_eq]
    exact ⟨rfl, rfl, rfl, rfl⟩
  refine ⟨queueInv_of_tail_shrinks hring hsame (fun _ => ⟨?_, ?_⟩) h, hsame⟩
  · rw [State.hdrOk, hdata, hmem, hring.cap]
    exact ⟨htail4, htail8, hsize4, hsize, (Nat.add_le_add_left hshrinks _).trans hend⟩
  · rw [hmem]
    exact hshrinks

/-- A success that keeps the live records. -/
theorem fifoAnswer_of_kept {i : Instr} {s u : State} {recs : List Nat} (hi : i = .qcommit ∨ i = .qpeek)
    (h : u.QueueInv recs) (hsame : ∀ x ∈ recs, x ≠ s.qtail.toNat → SameHeader s u x) :
    FifoAnswer i s recs (u.complete .noError) recs where
  inv := queueInv_complete _ h
  init hq := by simp [hq] at hi
  reserve hq := by simp [hq] at hi
  consume hq := by simp [hq] at hi
  keep _ := rfl
  fail _ := rfl
  headers x hx hne := (hsame x hx hne).trans (sameHeader_complete u _ x)

theorem execQcommit_fifo {s t : State} {recs : List Nat} (hwf : s.mem.wf = true) (h : s.QueueInv recs)
    (hrun : execQcommit s = .next t) : ∃ recs', FifoAnswer .qcommit s recs t recs' := by
  rcases execQcommit_next hrun with ⟨-, rfl⟩ | ⟨-, -, -, rfl⟩ | ⟨-, -, -, -, rfl⟩ | ⟨hq, hrec, -, -, hle, rfl⟩
  · exact ⟨_, fifoAnswer_of_failure h nofun nofun⟩
  · exact ⟨_, fifoAnswer_of_failure h nofun nofun⟩
  · exact ⟨_, fifoAnswer_of_failure h nofun nofun⟩
  · have htail : s.qtail.toNat ∈ recs := by
      cases recs with
      | nil => exact absurd h.live.2 hq
      | cons o rest =>
        obtain ⟨-, -, -, hwalk⟩ := h.live
        exact tail_mem_of_walk hwalk
    obtain ⟨hinv, hsame⟩ := committed_queueInv hwf h hrec htail hle
    exact ⟨_, fifoAnswer_of_kept (.inl rfl) hinv hsame⟩

theorem execQpeek_fifo {s t : State} {recs : List Nat} (h : s.QueueInv recs) (hrun : execQpeek s = .next t) :
    ∃ recs', FifoAnswer .qpeek s recs t recs' := by
  have hkept {u : State} (hring : SameRing s u) (hmem : u.mem = s.mem) :
      FifoAnswer .qpeek s recs (u.complete .noError) recs :=
    fifoAnswer_of_kept (.inr rfl) (queueInv_congr hring hmem h) fun x _ _ => sameHeader_of_mem_eq hmem x
  rcases execQpeek_next hrun with ⟨-, rfl⟩ | ⟨-, -, rfl⟩ | ⟨-, -, rfl⟩
  · exact ⟨_, hkept ⟨rfl, rfl, rfl, rfl⟩ rfl⟩
  · exact ⟨_, fifoAnswer_of_failure h nofun nofun⟩
  · exact ⟨_, hkept ⟨rfl, rfl, rfl, rfl⟩ rfl⟩

/-- A consume that has taken off the oldest record. -/
theorem fifoAnswer_of_consumed {s u : State} {recs : List Nat} (h : u.QueueInv recs.tail) (hmem : u.mem = s.mem) :
    FifoAnswer .qconsume s recs (u.complete .noError) recs.tail where
  inv := queueInv_complete _ h
  init := nofun
  reserve := nofun
  consume _ := rfl
  keep := by simp
  fail he := absurd rfl he
  headers x _ _ := sameHeader_of_mem_eq hmem x

/-- The oldest record of several taken off: the walk goes on from the second (R120). -/
theorem queueInv_tail {s : State} {o o' : Nat} {rest : List Nat} (hcfg : s.cfg.wf) (h : s.QueueInv (o :: o' :: rest)) :
    (s.setEnds (BitVec.ofNat 32 ((o + s.memBytes o) % s.qcap.toNat)) s.qtail).QueueInv (o' :: rest) := by
  have hcap := cap_le_of_queueInv hcfg h
  obtain ⟨⟨-, ht, -, -, hnext, hwalk⟩, hok, hapart, hsum, hc⟩ := h
  obtain ⟨-, hok⟩ := List.forall_mem_cons.1 hok
  obtain ⟨ho8, hoend⟩ := hdrOk_bounds (hok o' List.mem_cons_self)
  have hval : (BitVec.ofNat 32 o').toNat = o' := Nat.mod_eq_of_lt (by omega)
  have hnone : BitVec.ofNat 32 o' ≠ noneOffset := fun hnone => by
    have hmax : (BitVec.ofNat 32 o').toNat = 0xFFFFFFFF := congrArg BitVec.toNat hnone
    omega
  rw [← hnext]
  rw [occupied_cons] at hsum
  have hwalk' : (s.setEnds (BitVec.ofNat 32 o') s.qtail).walk o' rest :=
    walk_congr (s := s) (t := s.setEnds (BitVec.ofNat 32 o') s.qtail) rfl rfl (fun _ _ _ => rfl) hwalk
  exact ⟨⟨hnone, ht, hval.symm, hwalk'⟩, hok, hapart.of_cons, (Nat.le_add_left _ _).trans hsum, hc⟩

/-- There is one live record exactly when head and tail are the same. -/
theorem live_cons_iff {s : State} {o : Nat} {rest : List Nat} (h : s.live (o :: rest)) :
    s.qhead = s.qtail ↔ rest = [] := by
  obtain ⟨-, -, rfl, hwalk⟩ := h
  cases rest with
  | nil => exact iff_of_true (BitVec.eq_of_toNat_eq hwalk) rfl
  | cons o' rest => exact iff_of_false (fun heq => hwalk.1 (congrArg BitVec.toNat heq)) nofun

theorem execQconsume_fifo {s t : State} {recs : List Nat} (hcfg : s.cfg.wf) (h : s.QueueInv recs)
    (hrun : execQconsume s = .next t) : ∃ recs', FifoAnswer .qconsume s recs t recs' := by
  refine ⟨recs.tail, ?_⟩
  cases recs with
  | nil =>
    obtain ⟨hq, -⟩ := h.live
    rcases execQconsume_next hrun with ⟨-, rfl⟩ | ⟨hn, -⟩ | ⟨hn, -⟩ | ⟨hn, -⟩
    · exact fifoAnswer_of_consumed h rfl
    all_goals exact absurd hq hn
  | cons o rest =>
    have hone := live_cons_iff h.live
    obtain ⟨hq, -, ho, -⟩ := h.live
    rcases execQconsume_next hrun with ⟨hn, -⟩ | ⟨-, heq, rfl⟩ | ⟨-, -, hbad, rfl⟩ | ⟨-, hne, -, rfl⟩
    · exact absurd hn hq
    · obtain rfl := hone.1 heq
      exact fifoAnswer_of_consumed (queueInv_nil rfl rfl h.cap.1 h.cap.2) rfl
    · exact absurd (h.headers _ (ho ▸ List.mem_cons_self)) hbad
    · rw [← ho]
      cases rest with
      | nil => exact absurd (hone.2 rfl) hne
      | cons o' rest => exact fifoAnswer_of_consumed (queueInv_tail hcfg h) rfl

/-- Every queue command treats the live records as a first-in first-out queue. -/
theorem exec_fifo {i : Instr} {s t : State} {recs : List Nat} (hi : i.isQueue = true) (hinv : s.Inv)
    (h : s.QueueInv recs) (hrun : exec i s = .next t) : ∃ recs', FifoAnswer i s recs t recs' := by
  obtain ⟨hcfg, -, ⟨hwf, -⟩, -⟩ := hinv
  cases i with
  | qinit => exact execQinit_fifo h hrun
  | qreserve => exact execQreserve_fifo hcfg hwf h hrun
  | qcommit => exact execQcommit_fifo hwf h hrun
  | qpeek => exact execQpeek_fifo h hrun
  | qconsume => exact execQconsume_fifo hcfg h hrun
  | nop | locate | genfcs | detlen | validate | appendfcs | crcinit | crcbyte _ => cases hi

/-- Settles O51: the command answers (`exec_answers`) as a first-in first-out queue does (`exec_fifo`) and keeps the
invariant (`exec_memInv`, `exec_inv`). -/
theorem queueIsFirstInFirstOut : Obligations.QueueIsFirstInFirstOut := by
  intro s recs hinv h i hi
  obtain ⟨t, hrun⟩ := exec_answers hinv i
  obtain ⟨recs', hfifo⟩ := exec_fifo hi hinv h hrun
  refine ⟨t, recs', hrun, hfifo.inv, exec_memInv hinv hrun, fun hwf => exec_inv hinv hwf hrun, hfifo.init,
    hfifo.reserve, hfifo.consume, hfifo.keep, hfifo.fail, fun o ho hne => ?_⟩
  rw [← dataBytes_eq_dataField, ← dataBytes_eq_dataField, ← memBytes_eq_memField, ← memBytes_eq_memField]
  exact hfifo.headers o ho hne

end Sys2Proof.Proofs
